-- ==== Sys2Proof/Word.lean ====
section
/-! DEFINITION. The word types of the block (00_scope.md section 6: a byte is 8 bits, checksums and commands are 16 bits). -/

namespace Sys2Proof

/-- A byte: 8 bits, bit 0 least significant, unsigned (00_scope.md section 6). -/
abbrev Byte := BitVec 8

/-- A 16-bit word: a checksum value or a command word (R60, R85). -/
abbrev Word := BitVec 16

/-- A string of `UNIT_ROM` or `DESC_ROM`: a byte sequence with its length, never interpreted (R73). -/
abbrev Str := List Byte

/-- A record identifier: a sequence of 8-bit elements, element 0 (the most general level) first (R72). -/
abbrev Ident := List Byte

end Sys2Proof
end

