-- ==== Sys2Proof/Syntax.lean ====
section
/-! DEFINITION. The ten commands (R62), one constructor per row of spec/opcode_table.json. -/

namespace Sys2Proof

/-- A command of the block (R62). The operand of DEC.PUT is the record port (R72), which is no part of the command
word and stands in the state. A format B command carries its immediate byte, of which every value is legal (R61). -/
inductive Instr where
  /-- CRC.INIT (R86) -/
  | crcInit
  /-- CRC.UPD bb (R87) -/
  | crcUpd (bb : Byte)
  /-- CRC.FIN (R88) -/
  | crcFin
  /-- BUF.CLR (R101) -/
  | bufClr
  /-- BUF.PUSH bb (R102) -/
  | bufPush (bb : Byte)
  /-- FRM.FIND (R103) -/
  | frmFind
  /-- FRM.VAL (R120) -/
  | frmVal
  /-- FRM.SKIP (R124) -/
  | frmSkip
  /-- DEC.CLR (R143) -/
  | decClr
  /-- DEC.PUT (R144) -/
  | decPut
  deriving DecidableEq, Repr

/-- One MeasurementRecord as the wires of the record port carry it (R72). The value and the scale factor are opaque
to the block, so they are natural numbers; that they fit `VAL_W` and `SCALE_W` bits is `Record.wf`. -/
structure Record where
  /-- `rec_id` -/
  id : Ident
  /-- `rec_value` -/
  value : Nat
  /-- `rec_unit` -/
  unit : Byte
  /-- `rec_has_scale` -/
  hasScale : Bool
  /-- `rec_scale`, ignored when `rec_has_scale = 0` -/
  scale : Nat
  deriving DecidableEq, Repr

/-- What the host does to the block between commands (R6): it issues a command word (R60), drives the record port
(R72), or asserts the reset input (R190). Reading a register or a read port changes nothing and is no action here. -/
inductive HostAction where
  | issue (cmd : Word)
  | drivePort (r : Record)
  | reset
  deriving DecidableEq, Repr

end Sys2Proof
end

