-- ==== Sys2Proof/Decode.lean ====
section
/-! DEFINITION. The command word: its fields (R61), the ten rows of the command table (R62), the decoder, total on
every 16-bit word and rejecting by name (R64), and the encoder. -/

namespace Sys2Proof

/-- The opcode field, bits 15:8 (R61). -/
def opField (w : Word) : Byte := w.extractLsb' 8 8

/-- The immediate field, bits 7:0, an unsigned byte taken as it stands (R61, R63). -/
def immField (w : Word) : Byte := w.extractLsb' 0 8

/-- One row of the command table (R62): a word `w` is this command when `w AND mask = match`. -/
structure Row where
  mnemonic : String
  pattern : Word
  mask : Word
  build : Byte → Instr

/-- The command table of R62, in its order. -/
def commandRows : List Row :=
  [ ⟨"CRC.INIT", 0x1000#16, 0xFFFF#16, fun _ => .crcInit⟩,
    ⟨"CRC.UPD",  0x1100#16, 0xFF00#16, .crcUpd⟩,
    ⟨"CRC.FIN",  0x1200#16, 0xFFFF#16, fun _ => .crcFin⟩,
    ⟨"BUF.CLR",  0x2000#16, 0xFFFF#16, fun _ => .bufClr⟩,
    ⟨"BUF.PUSH", 0x2100#16, 0xFF00#16, .bufPush⟩,
    ⟨"FRM.FIND", 0x3000#16, 0xFFFF#16, fun _ => .frmFind⟩,
    ⟨"FRM.VAL",  0x3100#16, 0xFFFF#16, fun _ => .frmVal⟩,
    ⟨"FRM.SKIP", 0x3200#16, 0xFFFF#16, fun _ => .frmSkip⟩,
    ⟨"DEC.CLR",  0x4000#16, 0xFFFF#16, fun _ => .decClr⟩,
    ⟨"DEC.PUT",  0x4100#16, 0xFFFF#16, fun _ => .decPut⟩ ]

/-- The two ways a word is illegal (R64). -/
inductive DecodeError where
  /-- the opcode is none of the ten -/
  | unassignedOp (op : Byte)
  /-- a format N or R opcode with an immediate that is not zero -/
  | nonZeroImm (op imm : Byte)
  deriving DecidableEq, Repr

/-- Does the word meet the row (R62)? -/
def Row.hits (r : Row) (w : Word) : Bool := w &&& r.mask == r.pattern

/-- The decoder (R62, R64). -/
def decode (w : Word) : Except DecodeError Instr :=
  match commandRows.find? (fun r => r.hits w) with
  | some r => .ok (r.build (immField w))
  | none =>
    if commandRows.any (fun r => opField r.pattern == opField w) then .error (.nonZeroImm (opField w) (immField w))
    else .error (.unassignedOp (opField w))

/-- `{hi, lo}`: two bytes as one word, the first in the high bits (00_scope.md section 6). -/
def joinBytes (hi lo : Byte) : Word := (hi.setWidth 16 <<< 8) ||| lo.setWidth 16

/-- A command word from its two fields, `op` in bits 15:8 (R61). -/
def commandWord (op imm : Byte) : Word := joinBytes op imm

/-- The encoder, from the `op` column of R62: formats N and R have the immediate 0x00 (R61). -/
def encode : Instr → Word
  | .crcInit => commandWord 0x10#8 0x00#8
  | .crcUpd bb => commandWord 0x11#8 bb
  | .crcFin => commandWord 0x12#8 0x00#8
  | .bufClr => commandWord 0x20#8 0x00#8
  | .bufPush bb => commandWord 0x21#8 bb
  | .frmFind => commandWord 0x30#8 0x00#8
  | .frmVal => commandWord 0x31#8 0x00#8
  | .frmSkip => commandWord 0x32#8 0x00#8
  | .decClr => commandWord 0x40#8 0x00#8
  | .decPut => commandWord 0x41#8 0x00#8

/-- The mnemonic of a command (R62, R65). -/
def mnemonic : Instr → String
  | .crcInit => "CRC.INIT"
  | .crcUpd _ => "CRC.UPD"
  | .crcFin => "CRC.FIN"
  | .bufClr => "BUF.CLR"
  | .bufPush _ => "BUF.PUSH"
  | .frmFind => "FRM.FIND"
  | .frmVal => "FRM.VAL"
  | .frmSkip => "FRM.SKIP"
  | .decClr => "DEC.CLR"
  | .decPut => "DEC.PUT"

/-- The command word whose low `nbits` bits are those of `w` and whose other bits are zero. Every command is one
16-bit word (R60), so no bit of a command lies above bit 15. -/
def tableWord (nbits w : Nat) : Word := BitVec.ofNat 16 (w % 2 ^ nbits)

/-- The instruction the decoder reads from a row of spec/opcode_table.json. -/
def decodeTableWord (nbits w : Nat) : Option Instr :=
  match decode (tableWord nbits w) with
  | .ok i => some i
  | .error _ => none

end Sys2Proof
end

