-- ==== Sys2Proof/Config.lean ====
section
/-! DEFINITION. The parameters the spec leaves OPEN (R5), as plain data the machine takes as an argument, and the one
set of values that `State.reset` uses (log entry 1). No value of the spec is left free after a command, so this file
declares no opaque constant. -/

namespace Sys2Proof

/-- The sizes R5 leaves OPEN. A state carries the `Params` it was built with and no command changes them, so a
statement about every state is a statement about every value of the parameters. -/
structure Params where
  /-- `BUF_CAP`: capacity of the frame buffer in bytes. -/
  bufCap : Nat
  /-- `ID_LEN`: number of elements of a record identifier. -/
  idLen : Nat
  /-- `VAL_W`: width in bits of the raw numeric value. -/
  valW : Nat
  /-- `SCALE_W`: width in bits of the scale factor. -/
  scaleW : Nat
  /-- `MAP_CAP`: capacity of the decorated map in entries. -/
  mapCap : Nat
  /-- `LABEL_MAX`: longest unit label in bytes. -/
  labelMax : Nat
  /-- `DESC_MAX`: longest description in bytes. -/
  descMax : Nat
  deriving DecidableEq, Repr

/-- The least `n` with `2 ^ n > k` (R5 `IDX_W`, R14 the width of `map_count`). -/
def leastWidth (k : Nat) : Nat := if k = 0 then 0 else k.log2 + 1

/-- `IDX_W`, the width of every buffer index register (R5, R13). -/
def Params.idxW (p : Params) : Nat := leastWidth p.bufCap

/-- `UNIT_ROM` (R18): a partial function from unit code to label, as a table of key and string. -/
abbrev UnitRom := List (Byte × Str)

/-- `DESC_ROM` (R19): a partial function from key (the normalized identifier) to description, as a table. -/
abbrev DescRom := List (Ident × Str)

/-- The three entries every `UNIT_ROM` has (R140), in the bytes R73 gives: "W", "Wh", "A". -/
def pinnedUnits : UnitRom := [(27#8, [0x57#8]), (30#8, [0x57#8, 0x68#8]), (33#8, [0x41#8])]

namespace Config

/-- DESIGN CHOICE (log entry 1): the sizes of `State.reset`, those 95_test_vectors.md uses ("Conventions");
`LABEL_MAX` and `DESC_MAX`, which it leaves out, are 8 and 32. -/
def resetParams : Params :=
  { bufCap := 64, idLen := 6, valW := 32, scaleW := 8, mapCap := 4, labelMax := 8, descMax := 32 }

/-- DESIGN CHOICE (log entry 1): the `UNIT_ROM` of `State.reset`, exactly the three pinned entries. -/
def resetUnitRom : UnitRom := pinnedUnits

/-- DESIGN CHOICE (log entry 1): the `DESC_ROM` of `State.reset`, the one-entry fixture of 95_test_vectors.md
section 2.6: 1.0.16.7.0.255 has "TEST-DESC-A". -/
def resetDescRom : DescRom :=
  [([1#8, 0#8, 16#8, 7#8, 0#8, 255#8],
    [0x54#8, 0x45#8, 0x53#8, 0x54#8, 0x2D#8, 0x44#8, 0x45#8, 0x53#8, 0x43#8, 0x2D#8, 0x41#8])]

end Config

end Sys2Proof
end

