-- ==== Sys2Proof/Machine/State.lean ====
section
/-! DEFINITION. The state of the block as plain data (R12 to R20, R22, R40), the reasons a step can stop, and reset. -/

namespace Sys2Proof.Machine

/-- The candidate of R14, held while `cand_valid = 1`; R17 lets a model hold it as an optional triple, whose absence
is `cand_valid = 0` with the three registers reading 0. -/
structure Candidate where
  /-- `cand_start`: index of START's first byte -/
  candStart : Nat
  /-- `cand_endm`: index of END's first byte -/
  candEndm : Nat
  /-- `cand_end`: index of the second checksum byte -/
  candEnd : Nat
  deriving DecidableEq, Repr

/-- The valid frame view of R14 and R121, held while `frm_valid = 1`; optional as R17 lets it be. -/
structure FrameView where
  /-- `frm_start`: first index of the view -/
  frmStart : Nat
  /-- `frm_last`: last index of the view, the fill-count byte -/
  frmLast : Nat
  /-- `pl_start`: first index of the payload -/
  plStart : Nat
  /-- `pl_len`: payload length in bytes -/
  plLen : Nat
  deriving DecidableEq, Repr

/-- One entry of the decorated map (R20). The pairs `has_scale`/`scale`, `unit_hit`/`unit_label` and
`desc_hit`/`description` are each one optional value, as R142 asks for the strings: `none` is the bit 0. -/
structure Entry where
  id : Ident
  value : Nat
  unit : Byte
  scale : Option Nat
  unitLabel : Option Str
  description : Option Str
  deriving DecidableEq, Repr

/-- The frame buffer's storage: address and byte pairs, addresses strictly rising, no pair equal to what an unlisted
address reads as (`Memory.wf`). -/
abbrev Memory := List Host.Cell

/-- The whole state: the seventeen registers of R14 (the candidate, the view and `map_count` through the fields
`cand`, `frm` and `map`), the frame buffer (R40), the decorated map (R20), the read-only memories whose contents are
OPEN (R18, R19), the parameters (R5), and the host's side: the record port's wires (R72) and the actions the host has
yet to take (R6, R60). -/
structure State where
  /-- the OPEN sizes (R5); no step changes them -/
  params : Params
  /-- `UNIT_ROM` (R18); no step changes it -/
  unitRom : UnitRom
  /-- `DESC_ROM` (R19); no step changes it -/
  descRom : DescRom
  /-- the frame buffer `buf` (R40) -/
  buf : Memory
  /-- `len` (R14, R40) -/
  len : Nat
  /-- `scan_origin` (R14, R151) -/
  scanOrigin : Nat
  /-- `cand_valid`, `cand_start`, `cand_endm`, `cand_end` (R14, R17) -/
  cand : Option Candidate
  /-- `frm_valid`, `frm_start`, `frm_last`, `pl_start`, `pl_len` (R14, R17) -/
  frm : Option FrameView
  /-- `crc_acc` (R14) -/
  crcAcc : Word
  /-- `crc_result` (R14) -/
  crcResult : Word
  /-- `chk_emb` (R14) -/
  chkEmb : Word
  /-- `chk_comp` (R14) -/
  chkComp : Word
  /-- the decorated map, entry 0 first (R20); `map_count` is its length -/
  map : List Entry
  /-- `status` (R14, R15) -/
  status : Byte
  /-- the record port's wires as the host drives them (R72); an input, not state of the block (R12) -/
  port : Record
  /-- what the host does next, first action first (R6, R60); the environment's, not state of the block -/
  pending : List HostAction
  deriving DecidableEq, Repr

/-- The reasons the machine stops with a fault: there are none. "No error kind in this core is process-fatal" (R160);
every command is total in every state (93_implementation_defined.md U9), so no step of the model raises a fault. -/
inductive Fault where
  deriving DecidableEq, Repr

/-- The reasons a step is refused. -/
inductive Refusal where
  /-- Raised only by an arm of `exec` whose instruction has no meaning yet; no arm is such. Safe: the machine stops
  where the hardware goes on. -/
  | notModelled (mnemonic : String)
  deriving DecidableEq, Repr

/-- What a command or a step answers. -/
abbrev Result := Host.Outcome State Fault Refusal

/-- The record port's wires after reset, all zero. DESIGN CHOICE (log entry 2): the wires are the host's. -/
def idlePort (p : Params) : Record :=
  { id := List.replicate p.idLen 0#8, value := 0, unit := 0#8, hasScale := false, scale := 0 }

/-- The block after reset (R23), for any parameters and tables: every register at the last column of R14, the buffer
and the map empty. -/
def State.resetWith (p : Params) (u : UnitRom) (d : DescRom) : State :=
  { params := p, unitRom := u, descRom := d,
    buf := [], len := 0, scanOrigin := 0, cand := none, frm := none,
    crcAcc := 0xFFFF#16, crcResult := 0x0000#16, chkEmb := 0x0000#16, chkComp := 0x0000#16,
    map := [], status := 0x00#8,
    port := idlePort p, pending := [] }

/-- The machine right after reset (R23), with the parameters and tables of log entry 1 and no host action waiting. -/
def State.reset : State := State.resetWith Config.resetParams Config.resetUnitRom Config.resetDescRom

end Sys2Proof.Machine
end

