-- ==== Sys2Proof/Machine/Flags.lean ====
section
/-! DEFINITION. The status codes (R15), the conditions and their codes (R161), and what sets and clears the two flags
`cand_valid` and `frm_valid` with the registers of their views (R16, R17). -/

namespace Sys2Proof.Machine

/-- The names of R15's codes. -/
inductive StatusCode where
  | ok
  | candidate
  | valid
  | incomplete
  | mismatch
  | illegalCmd
  | bufOverflow
  | noCandidate
  | mapFull
  deriving DecidableEq, Repr

/-- The 8-bit value of a code (R15). -/
def statusBits : StatusCode → Byte
  | .ok => 0x00#8
  | .candidate => 0x01#8
  | .valid => 0x02#8
  | .incomplete => 0x80#8
  | .mismatch => 0x81#8
  | .illegalCmd => 0xC0#8
  | .bufOverflow => 0xC1#8
  | .noCandidate => 0xC2#8
  | .mapFull => 0xC3#8

/-- The conditions the block raises (R161); DecoderFailure and TransportTimeout arise in the host and have no code. -/
inductive Condition where
  | incompleteFrame
  | checksumMismatch
  | illegalCommand
  | bufOverflow
  | noCandidate
  | mapFull
  deriving DecidableEq, Repr

/-- The code of a condition (R161). -/
def conditionCode : Condition → StatusCode
  | .incompleteFrame => .incomplete
  | .checksumMismatch => .mismatch
  | .illegalCommand => .illegalCmd
  | .bufOverflow => .bufOverflow
  | .noCandidate => .noCandidate
  | .mapFull => .mapFull

/-- `status <- code` (R15). -/
def setStatus (c : StatusCode) (s : State) : State := { s with status := statusBits c }

/-- `cand_valid` (R14, R16). -/
def candValid (s : State) : Bool := s.cand.isSome

/-- `frm_valid` (R14, R16). -/
def frmValid (s : State) : Bool := s.frm.isSome

/-- Clear `frm_valid` and the four registers of the view (R17). -/
def clearView (s : State) : State := { s with frm := none }

/-- Clear `cand_valid` and its three registers, and with them the valid frame view (R17). -/
def clearCandidate (s : State) : State := { clearView s with cand := none }

/-- Set `cand_valid` and its three registers (R103). -/
def holdCandidate (c : Candidate) (s : State) : State := { s with cand := some c }

/-- Set `frm_valid` and the four registers of the view (R120). -/
def holdView (v : FrameView) (s : State) : State := { s with frm := some v }

end Sys2Proof.Machine
end

