-- ==== Sys2Proof/Machine/Operands.lean ====
section
/-! DEFINITION. Every operand form of the commands: the immediate byte (R63), the two marker constants (R71), the
record port (R72, R144), and the two table lookups (R140, R141). -/

namespace Sys2Proof.Machine

/-- The immediate as CRC.UPD uses it: zero-extended to 16 bits (R63, R82). -/
def zext16 (b : Byte) : Word := b.setWidth 16

/-- START, first byte at the lowest index (R71). -/
def startMarker : List Byte := [0x1B#8, 0x1B#8, 0x1B#8, 0x1B#8, 0x01#8, 0x01#8, 0x01#8, 0x01#8]

/-- END, first byte at the lowest index (R71). -/
def endMarker : List Byte := [0x1B#8, 0x1B#8, 0x1B#8, 0x1B#8, 0x1A#8]

/-- `unit_lookup(u)`: by exact equality of the code; `none` is NONE (R140). -/
def unitLookup (s : State) (u : Byte) : Option Str := s.unitRom.lookup u

/-- `normalize`, the identity on the tuple of bytes (R141, decision D15). -/
def normalizeId (id : Ident) : Ident := id

/-- `desc_lookup(id)`: by exact equality of all elements; `none` is NONE (R141). -/
def descLookup (s : State) (id : Ident) : Option Str := s.descRom.lookup (normalizeId id)

/-- The decoration of a record (R144): the port's fields bit for bit (R146), the scale only when it is present, and
the two lookups, whose absence stays explicit (R142). -/
def decorateRecord (s : State) (r : Record) : Entry :=
  { id := r.id, value := r.value, unit := r.unit,
    scale := if r.hasScale then some r.scale else none,
    unitLabel := unitLookup s r.unit,
    description := descLookup s r.id }

/-- DEC.PUT's operand, sampled once when the command executes (R72). -/
def samplePort (s : State) : Record := s.port

end Sys2Proof.Machine
end

