-- ==== Sys2Proof/Machine/Ops.lean ====
section
/-! DEFINITION. The named operations over the frame buffer and the map, the end of a command, and raising a condition,
which is all that "taking an exception" is in this block (R160, R173). There is no return from one (R174). -/

namespace Sys2Proof.Machine

/-- What an unlisted address of the buffer's storage reads as. Every index below `len` has been written by BUF.PUSH, so
an unlisted index below `len` is one that was pushed the byte 0x00; an index at or above `len` is read by no command
(R22), and the read port gives 0x00 there (R44). Log entry 3. -/
def Memory.unlisted : Byte := 0x00#8

/-- The canonical form: addresses strictly rising, and no byte listed that an unlisted address reads as. -/
abbrev Memory.wf (m : Memory) : Prop :=
  m.Pairwise (fun c d => c.1 < d.1) ∧ ∀ c ∈ m, c.2 ≠ Memory.unlisted

/-- The byte at an address of the storage. -/
def Memory.read : Memory → Nat → Byte
  | [], _ => Memory.unlisted
  | (b, x) :: rest, a => if a = b then x else Memory.read rest a

/-- Write one byte, keeping the canonical form. -/
def Memory.write : Memory → Nat → Byte → Memory
  | [], a, v => if v = Memory.unlisted then [] else [(a, v)]
  | (b, x) :: rest, a, v =>
    if a < b then (if v = Memory.unlisted then (b, x) :: rest else (a, v) :: (b, x) :: rest)
    else if a = b then (if v = Memory.unlisted then rest else (a, v) :: rest)
    else (b, x) :: Memory.write rest a v

/-- `buf[i]` (00_scope.md section 6), used by the rules only for `i < len`. -/
def bufByte (s : State) (i : Nat) : Byte := Memory.read s.buf i

/-- `buf[a..b]`: the bytes from `a` to `b`, inclusive at both ends, empty when `b < a` (00_scope.md section 6). -/
def bufSpan (s : State) (a b : Nat) : List Byte := (List.range' a (b + 1 - a)).map (bufByte s)

/-- `MemRead(a, 2)`: two bytes, the one at the lower index most significant (R42). -/
def memRead2 (s : State) (a : Nat) : Word := joinBytes (bufByte s a) (bufByte s (a + 1))

/-- `MemWrite(a, 1, v)`: one byte at index `a` (R47). -/
def memWrite1 (a : Nat) (v : Byte) (s : State) : State := { s with buf := Memory.write s.buf a v }

/-- Do the buffer's bytes from index `i` on begin with `pat`? -/
def bytesAgree (s : State) : List Byte → Nat → Bool
  | [], _ => true
  | b :: rest, i => bufByte s i == b && bytesAgree s rest (i + 1)

/-- `match(pat, i)`: the pattern lies wholly below `len` and every byte agrees (R100). -/
def matchAt (s : State) (pat : List Byte) (i : Nat) : Bool :=
  decide (i + pat.length ≤ s.len) && bytesAgree s pat i

/-- `first_match(pat, from)`: the least index at or above `from` where the pattern matches, `none` for NONE (R100). -/
def firstMatch (s : State) (pat : List Byte) (start : Nat) : Option Nat :=
  (List.range' start (s.len - start)).find? (matchAt s pat)

/-- The index of the map entry with this identifier, compared on all elements (R144). -/
def mapIndex (m : List Entry) (id : Ident) : Option Nat := m.findIdx? (fun e => e.id == id)

/-- The end of a command: its result code is written to `status` as its last act (R15, R60). -/
def finish (c : StatusCode) (s : State) : Result := .next (setStatus c s)

/-- `raise <Condition>` (00_scope.md section 6, R160, R173): the condition's code goes to `status` and the command ends
there; what the command wrote before stands (the info registers of ChecksumMismatch among it). Nothing is saved, no
mode changes, control goes nowhere. -/
def raise (c : Condition) (s : State) : Result := .next (setStatus (conditionCode c) s)

/-- The reset input, taken between commands (R190, R23): every register at its reset value, the buffer and the map
empty, the read-only memories unchanged. The record port and the host's further actions are the host's and stay. -/
def resetBlock (s : State) : State :=
  { State.resetWith s.params s.unitRom s.descRom with port := s.port, pending := s.pending }

end Sys2Proof.Machine
end

