-- ==== Sys2Proof/Machine/Buffer.lean ====
section
/-! DEFINITION. The commands of the frame buffer: BUF.CLR, BUF.PUSH (41_frame_delimiter.md section 2). -/

namespace Sys2Proof.Machine

/-- BUF.CLR (R101): the buffer empty, the search at its start, no candidate and no view; the checksum registers and the
map stay. -/
def execBufClr (s : State) : Result :=
  finish .ok { clearCandidate s with buf := [], len := 0, scanOrigin := 0 }

/-- BUF.PUSH bb (R102): append one byte at index `len`, or BufOverflow when the buffer is full (R167). -/
def execBufPush (bb : Byte) (s : State) : Result :=
  if s.len = s.params.bufCap then raise .bufOverflow s
  else finish .ok { memWrite1 s.len bb s with len := s.len + 1 }

end Sys2Proof.Machine
end

