-- ==== Sys2Proof/Machine/Checksum.lean ====
section
/-! DEFINITION. The Checksum Engine as functions: the table `T` (R80, R81), the per-byte update in its table form (R82)
and its bit-serial form (R89), and the whole function `checksum` (R83). -/

namespace Sys2Proof.Machine

/-- Rows 0x00 to 0x38 of R81's table. -/
def crcRows0 : List (List Word) :=
  [ [0x0000#16, 0x1189#16, 0x2312#16, 0x329B#16, 0x4624#16, 0x57AD#16, 0x6536#16, 0x74BF#16],
    [0x8C48#16, 0x9DC1#16, 0xAF5A#16, 0xBED3#16, 0xCA6C#16, 0xDBE5#16, 0xE97E#16, 0xF8F7#16],
    [0x1081#16, 0x0108#16, 0x3393#16, 0x221A#16, 0x56A5#16, 0x472C#16, 0x75B7#16, 0x643E#16],
    [0x9CC9#16, 0x8D40#16, 0xBFDB#16, 0xAE52#16, 0xDAED#16, 0xCB64#16, 0xF9FF#16, 0xE876#16],
    [0x2102#16, 0x308B#16, 0x0210#16, 0x1399#16, 0x6726#16, 0x76AF#16, 0x4434#16, 0x55BD#16],
    [0xAD4A#16, 0xBCC3#16, 0x8E58#16, 0x9FD1#16, 0xEB6E#16, 0xFAE7#16, 0xC87C#16, 0xD9F5#16],
    [0x3183#16, 0x200A#16, 0x1291#16, 0x0318#16, 0x77A7#16, 0x662E#16, 0x54B5#16, 0x453C#16],
    [0xBDCB#16, 0xAC42#16, 0x9ED9#16, 0x8F50#16, 0xFBEF#16, 0xEA66#16, 0xD8FD#16, 0xC974#16] ]

/-- Rows 0x40 to 0x78 of R81's table. -/
def crcRows1 : List (List Word) :=
  [ [0x4204#16, 0x538D#16, 0x6116#16, 0x709F#16, 0x0420#16, 0x15A9#16, 0x2732#16, 0x36BB#16],
    [0xCE4C#16, 0xDFC5#16, 0xED5E#16, 0xFCD7#16, 0x8868#16, 0x99E1#16, 0xAB7A#16, 0xBAF3#16],
    [0x5285#16, 0x430C#16, 0x7197#16, 0x601E#16, 0x14A1#16, 0x0528#16, 0x37B3#16, 0x263A#16],
    [0xDECD#16, 0xCF44#16, 0xFDDF#16, 0xEC56#16, 0x98E9#16, 0x8960#16, 0xBBFB#16, 0xAA72#16],
    [0x6306#16, 0x728F#16, 0x4014#16, 0x519D#16, 0x2522#16, 0x34AB#16, 0x0630#16, 0x17B9#16],
    [0xEF4E#16, 0xFEC7#16, 0xCC5C#16, 0xDDD5#16, 0xA96A#16, 0xB8E3#16, 0x8A78#16, 0x9BF1#16],
    [0x7387#16, 0x620E#16, 0x5095#16, 0x411C#16, 0x35A3#16, 0x242A#16, 0x16B1#16, 0x0738#16],
    [0xFFCF#16, 0xEE46#16, 0xDCDD#16, 0xCD54#16, 0xB9EB#16, 0xA862#16, 0x9AF9#16, 0x8B70#16] ]

/-- Rows 0x80 to 0xB8 of R81's table. -/
def crcRows2 : List (List Word) :=
  [ [0x8408#16, 0x9581#16, 0xA71A#16, 0xB693#16, 0xC22C#16, 0xD3A5#16, 0xE13E#16, 0xF0B7#16],
    [0x0840#16, 0x19C9#16, 0x2B52#16, 0x3ADB#16, 0x4E64#16, 0x5FED#16, 0x6D76#16, 0x7CFF#16],
    [0x9489#16, 0x8500#16, 0xB79B#16, 0xA612#16, 0xD2AD#16, 0xC324#16, 0xF1BF#16, 0xE036#16],
    [0x18C1#16, 0x0948#16, 0x3BD3#16, 0x2A5A#16, 0x5EE5#16, 0x4F6C#16, 0x7DF7#16, 0x6C7E#16],
    [0xA50A#16, 0xB483#16, 0x8618#16, 0x9791#16, 0xE32E#16, 0xF2A7#16, 0xC03C#16, 0xD1B5#16],
    [0x2942#16, 0x38CB#16, 0x0A50#16, 0x1BD9#16, 0x6F66#16, 0x7EEF#16, 0x4C74#16, 0x5DFD#16],
    [0xB58B#16, 0xA402#16, 0x9699#16, 0x8710#16, 0xF3AF#16, 0xE226#16, 0xD0BD#16, 0xC134#16],
    [0x39C3#16, 0x284A#16, 0x1AD1#16, 0x0B58#16, 0x7FE7#16, 0x6E6E#16, 0x5CF5#16, 0x4D7C#16] ]

/-- Rows 0xC0 to 0xF8 of R81's table. -/
def crcRows3 : List (List Word) :=
  [ [0xC60C#16, 0xD785#16, 0xE51E#16, 0xF497#16, 0x8028#16, 0x91A1#16, 0xA33A#16, 0xB2B3#16],
    [0x4A44#16, 0x5BCD#16, 0x6956#16, 0x78DF#16, 0x0C60#16, 0x1DE9#16, 0x2F72#16, 0x3EFB#16],
    [0xD68D#16, 0xC704#16, 0xF59F#16, 0xE416#16, 0x90A9#16, 0x8120#16, 0xB3BB#16, 0xA232#16],
    [0x5AC5#16, 0x4B4C#16, 0x79D7#16, 0x685E#16, 0x1CE1#16, 0x0D68#16, 0x3FF3#16, 0x2E7A#16],
    [0xE70E#16, 0xF687#16, 0xC41C#16, 0xD595#16, 0xA12A#16, 0xB0A3#16, 0x8238#16, 0x93B1#16],
    [0x6B46#16, 0x7ACF#16, 0x4854#16, 0x59DD#16, 0x2D62#16, 0x3CEB#16, 0x0E70#16, 0x1FF9#16],
    [0xF78F#16, 0xE606#16, 0xD49D#16, 0xC514#16, 0xB1AB#16, 0xA022#16, 0x92B9#16, 0x8330#16],
    [0x7BC7#16, 0x6A4E#16, 0x58D5#16, 0x495C#16, 0x3DE3#16, 0x2C6A#16, 0x1EF1#16, 0x0F78#16] ]

/-- The contents of the CRC table as R81 prints them: row `r` holds `T[8r]` to `T[8r+7]`. -/
def crcRows : List (List Word) := crcRows0 ++ crcRows1 ++ crcRows2 ++ crcRows3

/-- `T[i]`: the read-only memory of 256 entries of 16 bits, addressed by an 8-bit index (R21, R81). -/
def crcTable (i : Byte) : Word := (crcRows.getD (i.toNat / 8) []).getD (i.toNat % 8) 0#16

/-- One shift of the generator: right by one, XOR 0x8408 when the bit shifted out is 1 (R80, R89). -/
def crcShift (c : Word) : Word := if c.getLsbD 0 then (c >>> 1) ^^^ 0x8408#16 else c >>> 1

/-- `crcShift`, `n` times. -/
def crcShifts : Nat → Word → Word
  | 0, c => c
  | n + 1, c => crcShifts n (crcShift c)

/-- The derivation of a table entry from the polynomial 0x8408 (R80). -/
def crcDerive (i : Byte) : Word := crcShifts 8 (zext16 i)

/-- `crc_step(s, b)`: the table entry at the XOR of the byte and the state's low byte, XOR the state shifted right by
eight (R82). -/
def crcStep (s : Word) (b : Byte) : Word :=
  crcTable (((zext16 b ^^^ s) &&& 0x00FF#16).setWidth 8) ^^^ (s >>> 8)

/-- The bit-serial form of the same update (R89). -/
def crcStepSerial (s : Word) (b : Byte) : Word := crcShifts 8 (s ^^^ zext16 b)

/-- The running state after a byte sequence, in index order (R83). -/
def crcRun (s : Word) (bytes : List Byte) : Word := bytes.foldl crcStep s

/-- `swap16(v) = {v[7:0], v[15:8]}` (00_scope.md section 6). -/
def swap16 (v : Word) : Word := joinBytes (v.extractLsb' 0 8) (v.extractLsb' 8 8)

/-- The final XOR and the byte swap (R83). -/
def crcFinal (s : Word) : Word := swap16 (s ^^^ 0xFFFF#16)

/-- `checksum(seq)` (R83): total, for any byte sequence (R84). -/
def checksum (bytes : List Byte) : Word := crcFinal (crcRun 0xFFFF#16 bytes)

end Sys2Proof.Machine
end

