-- ==== Sys2Proof/Machine/Crc.lean ====
section
/-! DEFINITION. The commands of the Checksum Engine: CRC.INIT, CRC.UPD, CRC.FIN (40_checksum_engine.md section 3). -/

namespace Sys2Proof.Machine

/-- CRC.INIT (R86). -/
def execCrcInit (s : State) : Result := finish .ok { s with crcAcc := 0xFFFF#16 }

/-- CRC.UPD bb (R87): `crc_acc` is read before it is written. -/
def execCrcUpd (bb : Byte) (s : State) : Result := finish .ok { s with crcAcc := crcStep s.crcAcc bb }

/-- CRC.FIN (R88): `crc_acc` stays. -/
def execCrcFin (s : State) : Result := finish .ok { s with crcResult := crcFinal s.crcAcc }

end Sys2Proof.Machine
end

