-- ==== Sys2Proof/Machine/Decorate.lean ====
section
/-! DEFINITION. The commands of the Record Decorator: DEC.CLR, DEC.PUT (43_record_decorator.md section 2). -/

namespace Sys2Proof.Machine

/-- DEC.CLR (R143). -/
def execDecClr (s : State) : Result := finish .ok { s with map := [] }

/-- Put an entry in the map (R144): overwrite in place the entry with its identifier; else MapFull when the map is full
(R169); else append it. -/
def putEntry (e : Entry) (s : State) : Result :=
  match mapIndex s.map e.id with
  | some k => finish .ok { s with map := s.map.set k e }
  | none =>
    if s.map.length = s.params.mapCap then raise .mapFull s
    else finish .ok { s with map := s.map ++ [e] }

/-- DEC.PUT (R144): decorate the record on the record port and put it in the map. -/
def execDecPut (s : State) : Result := putEntry (decorateRecord s (samplePort s)) s

end Sys2Proof.Machine
end

