-- ==== Sys2Proof/Machine/Frame.lean ====
section
/-! DEFINITION. The commands of the Frame Delimiter's search and of the Frame Validator: FRM.FIND
(41_frame_delimiter.md section 3), FRM.VAL and FRM.SKIP (42_frame_validator.md). -/

namespace Sys2Proof.Machine

/-- The search of FRM.FIND (R103): the first START at or after `scan_origin`, the first END at or after it, and the
span to three bytes past END's last byte, if all of it is below `len`. -/
def locateFrame (s : State) : Option Candidate :=
  match firstMatch s startMarker s.scanOrigin with
  | none => none
  | some p0 =>
    match firstMatch s endMarker p0 with
    | none => none
    | some p1 =>
      if p1 + 7 ≥ s.len then none
      else some { candStart := p0, candEndm := p1, candEnd := p1 + 7 }

/-- FRM.FIND (R103): any earlier candidate and view are dropped first, and stay dropped when IncompleteFrame is raised
(90_conflicts.md C13). -/
def execFrmFind (s : State) : Result :=
  match locateFrame s with
  | none => raise .incompleteFrame (clearCandidate s)
  | some c => finish .candidate (holdCandidate c (clearCandidate s))

/-- The valid frame view of a candidate (R120, R121, R122). -/
def viewOf (c : Candidate) : FrameView :=
  { frmStart := c.candStart, frmLast := c.candEnd - 2,
    plStart := c.candStart + 8, plLen := c.candEndm - c.candStart - 8 }

/-- The embedded checksum of a candidate, its last two bytes, big-endian (R42, R120). -/
def embeddedChecksum (s : State) (c : Candidate) : Word := memRead2 s (c.candEnd - 1)

/-- The checksum of a candidate's covered span, every byte but the last two (R120). -/
def coveredChecksum (s : State) (c : Candidate) : Word := checksum (bufSpan s c.candStart (c.candEnd - 2))

/-- Write the two info registers of FRM.VAL (R120, R161). -/
def recordChecksums (c : Candidate) (s : State) : State :=
  { s with chkEmb := embeddedChecksum s c, chkComp := coveredChecksum s c }

/-- FRM.VAL (R120): NoCandidate without a candidate; else both checksums are recorded and compared for equality. The
candidate is kept on both outcomes. -/
def execFrmVal (s : State) : Result :=
  match s.cand with
  | none => raise .noCandidate s
  | some c =>
    if coveredChecksum s c = embeddedChecksum s c then finish .valid (holdView (viewOf c) (recordChecksums c s))
    else raise .checksumMismatch (clearView (recordChecksums c s))

/-- FRM.SKIP (R124): resume the search just past the candidate's START position. -/
def execFrmSkip (s : State) : Result :=
  match s.cand with
  | none => raise .noCandidate s
  | some c => finish .ok (clearCandidate { s with scanOrigin := c.candStart + 1 })

end Sys2Proof.Machine
end

