-- ==== Sys2Proof/Machine/Dispatch.lean ====
section
/-! DEFINITION. One arm per command: the call of its meaning (R62). -/

namespace Sys2Proof.Machine

def exec (i : Instr) (s : State) : Host.Outcome State Fault Refusal :=
  match i with
  | .crcInit => Sys2Proof.Machine.execCrcInit s
  | .crcUpd bb => Sys2Proof.Machine.execCrcUpd bb s
  | .crcFin => Sys2Proof.Machine.execCrcFin s
  | .bufClr => Sys2Proof.Machine.execBufClr s
  | .bufPush bb => Sys2Proof.Machine.execBufPush bb s
  | .frmFind => Sys2Proof.Machine.execFrmFind s
  | .frmVal => Sys2Proof.Machine.execFrmVal s
  | .frmSkip => Sys2Proof.Machine.execFrmSkip s
  | .decClr => Sys2Proof.Machine.execDecClr s
  | .decPut => Sys2Proof.Machine.execDecPut s

end Sys2Proof.Machine
end

