-- ==== Sys2Proof/Machine/Perform.lean ====
section
/-! DEFINITION. What one action of the host does to the block (R6, R60, R72, R190), a sequence of actions in order
(R48), and the pseudo-instructions of the assembler as such sequences (R65). -/

namespace Sys2Proof.Machine

/-- One command word (R60, R172): it is decoded first; an illegal word raises IllegalCommand and is not executed (R64,
R166); a legal one is executed to completion. -/
def runCommand (cmd : Word) (s : State) : Result :=
  match decode cmd with
  | .ok i => exec i s
  | .error _ => raise .illegalCommand s

/-- One action of the host: a command (R60), a new level of the record port's wires (R72), or reset (R190). -/
def perform (a : HostAction) (s : State) : Result :=
  match a with
  | .issue cmd => runCommand cmd s
  | .drivePort r => .next { s with port := r }
  | .reset => .next (resetBlock s)

/-- Actions one after another, each seeing all the effects of the earlier ones (R48). -/
def performAll : List HostAction → State → Result
  | [], s => .next s
  | a :: rest, s =>
    match perform a s with
    | .next t => performAll rest t
    | .fault f => .fault f
    | .refused r => .refused r

/-- The host issues a command by its word (R60). -/
def issueInstr (i : Instr) : HostAction := .issue (encode i)

/-- `CHECKSUM b0 ... bn-1` (R65). -/
def pseudoChecksum (bytes : List Byte) : List HostAction :=
  issueInstr .crcInit :: (bytes.map (fun b => issueInstr (.crcUpd b)) ++ [issueInstr .crcFin])

/-- `BUF.LOAD b0 ... bn-1` (R65). -/
def pseudoBufLoad (bytes : List Byte) : List HostAction := bytes.map (fun b => issueInstr (.bufPush b))

/-- `DEC.PUT {...}` as the host does it: drive the record port, then issue the command (R65, R72). -/
def putRecord (r : Record) : List HostAction := [.drivePort r, issueInstr .decPut]

/-- `DECORATE r0 ... rn-1` (R65). -/
def pseudoDecorate (records : List Record) : List HostAction :=
  issueInstr .decClr :: records.flatMap putRecord

end Sys2Proof.Machine
end

