-- ==== Sys2Proof/Machine/Step.lean ====
section
/-! DEFINITION. One step of the machine. The block has no program counter and fetches nothing (R11, R51): a step takes
the host's next action, and with none it holds its state (R177, R190). -/

namespace Sys2Proof.Machine

/-- One step: the host's next action is performed; while the host does nothing the block holds its state and does
nothing (R177). -/
def step (s : State) : Host.Outcome State Fault Refusal :=
  match s.pending with
  | [] => .next s
  | a :: rest => perform a { s with pending := rest }

/-- The state in which the host's very next action is to issue the command word with these bits, so that the next step
runs it. A program comes to run only so: from outside, as actions of the host (log entry 4). -/
def State.withFetchWord (s : State) (nbits w : Nat) : State :=
  { s with pending := .issue (tableWord nbits w) :: s.pending }

end Sys2Proof.Machine
end

