-- ==== Sys2Proof/Machine/Ports.lean ====
section
/-! DEFINITION. What the host reads between commands: the seventeen registers (R14), the buffer read port (R44) and the
map read port (R45). No read changes the state. -/

namespace Sys2Proof.Machine

/-- The seventeen registers of R14, in its order. -/
inductive Reg where
  | status
  | len
  | scanOrigin
  | candValid
  | candStart
  | candEndm
  | candEnd
  | frmValid
  | frmStart
  | frmLast
  | plStart
  | plLen
  | crcAcc
  | crcResult
  | chkEmb
  | chkComp
  | mapCount
  deriving DecidableEq, Repr

/-- The width of a register in bits (R14, R13). -/
def regWidth (p : Params) : Reg → Nat
  | .status => 8
  | .candValid | .frmValid => 1
  | .crcAcc | .crcResult | .chkEmb | .chkComp => 16
  | .mapCount => leastWidth p.mapCap
  | .len | .scanOrigin | .candStart | .candEndm | .candEnd | .frmStart | .frmLast | .plStart | .plLen => p.idxW

/-- A register of a view that is not held reads 0 (R17). -/
def heldOr0 {α : Type} (v : Option α) (f : α → Nat) : Nat :=
  match v with
  | some a => f a
  | none => 0

/-- The value the host reads from a register (R14). -/
def readReg (s : State) : Reg → Nat
  | .status => s.status.toNat
  | .len => s.len
  | .scanOrigin => s.scanOrigin
  | .candValid => (candValid s).toNat
  | .candStart => heldOr0 s.cand Candidate.candStart
  | .candEndm => heldOr0 s.cand Candidate.candEndm
  | .candEnd => heldOr0 s.cand Candidate.candEnd
  | .frmValid => (frmValid s).toNat
  | .frmStart => heldOr0 s.frm FrameView.frmStart
  | .frmLast => heldOr0 s.frm FrameView.frmLast
  | .plStart => heldOr0 s.frm FrameView.plStart
  | .plLen => heldOr0 s.frm FrameView.plLen
  | .crcAcc => s.crcAcc.toNat
  | .crcResult => s.crcResult.toNat
  | .chkEmb => s.chkEmb.toNat
  | .chkComp => s.chkComp.toNat
  | .mapCount => s.map.length

/-- The outputs of the buffer read port (R44). -/
structure BufPort where
  rdData : Byte
  rdOk : Bool
  deriving DecidableEq, Repr

/-- The buffer read port: the byte at `rd_idx` below `len`, else 0x00 with `rd_ok = 0` (R44). -/
def bufReadPort (s : State) (rdIdx : Nat) : BufPort :=
  if rdIdx < s.len then ⟨bufByte s rdIdx, true⟩ else ⟨0x00#8, false⟩

/-- The outputs of the map read port: the nine fields of an entry (R20) and `map_ok` (R45). -/
structure MapPort where
  id : Ident
  value : Nat
  unit : Byte
  hasScale : Bool
  scale : Nat
  unitHit : Bool
  unitLabel : Str
  descHit : Bool
  description : Str
  mapOk : Bool
  deriving DecidableEq, Repr

/-- An entry as the nine fields of R20: an absent scale reads 0, an absent string is empty with its hit bit 0. -/
def entryFields (e : Entry) : MapPort :=
  { id := e.id, value := e.value, unit := e.unit,
    hasScale := e.scale.isSome, scale := e.scale.getD 0,
    unitHit := e.unitLabel.isSome, unitLabel := e.unitLabel.getD [],
    descHit := e.description.isSome, description := e.description.getD [],
    mapOk := true }

/-- The outputs for an index that holds no entry: every field zero, strings empty, `map_ok = 0` (R45). -/
def noEntryFields (p : Params) : MapPort :=
  { id := List.replicate p.idLen 0#8, value := 0, unit := 0#8, hasScale := false, scale := 0,
    unitHit := false, unitLabel := [], descHit := false, description := [], mapOk := false }

/-- The map read port (R45). -/
def mapReadPort (s : State) (mapIdx : Nat) : MapPort :=
  match s.map[mapIdx]? with
  | some e => entryFields e
  | none => noEntryFields s.params

/-- The bytes of the valid frame view, `buf[frm_start .. frm_last]`, which the host hands to the protocol decoder
while `frm_valid = 1` (R121). -/
def viewBytes (s : State) : Option (List Byte) :=
  s.frm.map (fun v => bufSpan s v.frmStart v.frmLast)

/-- The payload of the valid frame, `buf[pl_start .. pl_start + pl_len - 1]`, empty when `pl_len = 0` (R122). -/
def payloadBytes (s : State) : Option (List Byte) :=
  s.frm.map (fun v => (List.range' v.plStart v.plLen).map (bufByte s))

end Sys2Proof.Machine
end

