-- ==== Sys2Proof/Machine/Wire.lean ====
section
/-! DEFINITION. The frame wire format (R70), as the byte sequence a sender builds. -/

namespace Sys2Proof.Machine

/-- The covered span: START, payload, END, fill count (R70). -/
def coveredSpan (payload : List Byte) (fill : Byte) : List Byte := startMarker ++ payload ++ endMarker ++ [fill]

/-- The two checksum bytes on the wire, high byte first (R43, R70). -/
def checksumBytes (c : Word) : List Byte := [c.extractLsb' 8 8, c.extractLsb' 0 8]

/-- A whole frame whose checksum is computed over its covered span (R70, R126). -/
def wireFrame (payload : List Byte) (fill : Byte) : List Byte :=
  coveredSpan payload fill ++ checksumBytes (checksum (coveredSpan payload fill))

end Sys2Proof.Machine
end

