-- ==== Sys2Proof/WellFormed.lean ====
section
/-! DEFINITION. What the parameters, the tables and the host's inputs must be for the spec's rules to speak of them:
the constraints of R5 and the widths of the record port (R72). An `Instr` needs no check of its own: its one operand
is a byte, and every byte is legal (R61). -/

namespace Sys2Proof

/-- The constraints of R5 on the OPEN sizes. -/
def Params.wf (p : Params) : Bool :=
  decide (16 ≤ p.bufCap) && decide (1 ≤ p.idLen) && decide (1 ≤ p.valW) && decide (1 ≤ p.scaleW)
    && decide (1 ≤ p.mapCap) && decide (2 ≤ p.labelMax) && decide (1 ≤ p.descMax)

/-- The constraints of R5 and R18 on `UNIT_ROM`: a partial function (no key twice), labels of at most `LABEL_MAX`
bytes, and the three pinned entries (R140). -/
def UnitRom.wf (p : Params) (u : UnitRom) : Bool :=
  decide (u.map Prod.fst).Nodup && u.all (fun kv => decide (kv.2.length ≤ p.labelMax))
    && pinnedUnits.all (fun kv => u.contains kv)

/-- The constraints of R5 and R19 on `DESC_ROM`: a partial function, keys of `ID_LEN` elements, descriptions of at
most `DESC_MAX` bytes. -/
def DescRom.wf (p : Params) (d : DescRom) : Bool :=
  decide (d.map Prod.fst).Nodup
    && d.all (fun kv => decide (kv.1.length = p.idLen) && decide (kv.2.length ≤ p.descMax))

/-- A record fits the record port's signals (R72): `ID_LEN` elements, `VAL_W` bits, `SCALE_W` bits. -/
def Record.wf (p : Params) (r : Record) : Bool :=
  decide (r.id.length = p.idLen) && decide (r.value < 2 ^ p.valW) && decide (r.scale < 2 ^ p.scaleW)

/-- A host action the ports can carry: any command word is accepted (an illegal one has its own effect, R64), a
record must fit the record port. -/
def HostAction.wf (p : Params) : HostAction → Bool
  | .issue _ => true
  | .drivePort r => r.wf p
  | .reset => true

end Sys2Proof
end

