-- ==== Sys2Proof/Safety.lean ====
section
/-! DEFINITION. What holds of every state a run reaches: the invariants of R14, the legal status codes of R15, the
widths of R13, R20 and R72, and the buffer's canonical form. -/

namespace Sys2Proof.Machine

/-- `match(pat, i)` as R100 words it: the pattern lies wholly below `len`, and `buf[i+k] = pat[k]` for every `k`. -/
abbrev Matches (s : State) (pat : List Byte) (i : Nat) : Prop :=
  i + pat.length ≤ s.len ∧ ∀ k (h : k < pat.length), bufByte s (i + k) = pat[k]

/-- `i` is the least index at or above `start` where the pattern matches (R100, `first_match`). -/
abbrev IsFirstMatch (s : State) (pat : List Byte) (start i : Nat) : Prop :=
  start ≤ i ∧ Matches s pat i ∧ ∀ j, start ≤ j → j < i → ¬ Matches s pat j

/-- The pattern matches at no index at or above `start` (R100, `first_match` is NONE). -/
def NoMatch (s : State) (pat : List Byte) (start : Nat) : Prop := ∀ i, start ≤ i → ¬ Matches s pat i

/-- The parameters and the tables meet the constraints of R5. -/
structure State.ConfigOk (s : State) : Prop where
  params : s.params.wf = true
  unitRom : UnitRom.wf s.params s.unitRom = true
  descRom : DescRom.wf s.params s.descRom = true

/-- The buffer's storage is in its canonical form and lists no index at or above `len` (R22, R40). -/
structure State.BufferOk (s : State) : Prop where
  canonical : Memory.wf s.buf
  belowLen : ∀ c ∈ s.buf, c.1 < s.len
  lenLe : s.len ≤ s.params.bufCap
  originLe : s.scanOrigin ≤ s.len

/-- What R14 says of a held candidate. -/
structure State.CandidateOk (s : State) (c : Candidate) : Prop where
  afterOrigin : s.scanOrigin ≤ c.candStart
  roomForStart : c.candStart + 8 ≤ c.candEndm
  endIs : c.candEnd = c.candEndm + 7
  belowLen : c.candEnd < s.len
  startMatches : Matches s startMarker c.candStart
  endMatches : Matches s endMarker c.candEndm
  firstStart : ∀ i, s.scanOrigin ≤ i → i < c.candStart → ¬ Matches s startMarker i
  firstEnd : ∀ i, c.candStart ≤ i → i < c.candEndm → ¬ Matches s endMarker i

/-- What R14 says of a held view: it is the view of the held candidate, and the two recorded checksums are equal and
are the checksum of its covered span. -/
structure State.ViewOk (s : State) (v : FrameView) : Prop where
  ofCandidate : ∃ c, s.cand = some c ∧ v.frmStart = c.candStart ∧ v.frmLast = c.candEnd - 2 ∧
    v.plStart = c.candStart + 8 ∧ v.plLen = c.candEndm - c.candStart - 8 ∧
    s.chkComp = checksum (bufSpan s c.candStart (c.candEnd - 2))
  equal : s.chkEmb = s.chkComp

/-- The widths of an entry's fields (R20). -/
def Entry.wf (p : Params) (e : Entry) : Prop :=
  e.id.length = p.idLen ∧ e.value < 2 ^ p.valW ∧ (∀ x ∈ e.scale, x < 2 ^ p.scaleW) ∧
    (∀ l ∈ e.unitLabel, l.length ≤ p.labelMax) ∧ (∀ d ∈ e.description, d.length ≤ p.descMax)

/-- What R14 and R20 say of the decorated map. -/
structure State.MapOk (s : State) : Prop where
  countLe : s.map.length ≤ s.params.mapCap
  keysDistinct : (s.map.map Entry.id).Nodup
  entriesFit : ∀ e ∈ s.map, e.wf s.params

/-- The host drives only what the ports can carry (R72). -/
structure State.HostOk (s : State) : Prop where
  portFits : s.port.wf s.params = true
  actionsFit : ∀ a ∈ s.pending, a.wf s.params = true

/-- The invariant of the block (R14, R15, R20), which reset meets and every step keeps. -/
structure State.Inv (s : State) : Prop where
  config : s.ConfigOk
  buffer : s.BufferOk
  candidate : ∀ c, s.cand = some c → s.CandidateOk c
  view : ∀ v, s.frm = some v → s.ViewOk v
  mapOk : s.MapOk
  statusLegal : ∃ c : StatusCode, s.status = statusBits c
  host : s.HostOk

end Sys2Proof.Machine
end

