-- ==== Sys2Proof/Certificates/Slice0/Obligations.lean ====
section
/-! DEFINITION. The statements for the provers. Each docstring names the rule it formalises; where a clause rests on a
choice of the model, it names the log entry. -/

open Sys2Proof Sys2Proof.Machine

namespace Sys2Proof.Spec

/-- The `op` field of a word, bits 15:8, as a number (R61). -/
def opOf (w : Word) : Nat := w.toNat / 256

/-- The `imm` field of a word, bits 7:0, as a number (R61). -/
def immOf (w : Word) : Nat := w.toNat % 256

/-- R64's words for an illegal word. -/
def Illegal (w : Word) : Prop :=
  opOf w ∉ [0x10, 0x11, 0x12, 0x20, 0x21, 0x30, 0x31, 0x32, 0x40, 0x41] ∨
    (opOf w ∈ [0x10, 0x12, 0x20, 0x30, 0x31, 0x32, 0x40, 0x41] ∧ immOf w ≠ 0)

/-- The last column of R14. -/
def resetValue : Reg → Nat
  | .crcAcc => 0xFFFF
  | .status | .len | .scanOrigin | .candValid | .candStart | .candEndm | .candEnd | .frmValid | .frmStart | .frmLast
  | .plStart | .plLen | .crcResult | .chkEmb | .chkComp | .mapCount => 0

/-- The registers of the candidate (R14). -/
def candidateRegs : List Reg := [.candValid, .candStart, .candEndm, .candEnd]

/-- The registers of the valid frame view (R14). -/
def viewRegs : List Reg := [.frmValid, .frmStart, .frmLast, .plStart, .plLen]

/-- The column "written by" of R14, read by command. -/
def writtenBy : Instr → List Reg
  | .crcInit => [.status, .crcAcc]
  | .crcUpd _ => [.status, .crcAcc]
  | .crcFin => [.status, .crcResult]
  | .bufClr => [.status, .len, .scanOrigin] ++ candidateRegs ++ viewRegs
  | .bufPush _ => [.status, .len]
  | .frmFind => [.status] ++ candidateRegs ++ viewRegs
  | .frmVal => [.status, .chkEmb, .chkComp] ++ viewRegs
  | .frmSkip => [.status, .scanOrigin] ++ candidateRegs ++ viewRegs
  | .decClr => [.status, .mapCount]
  | .decPut => [.status, .mapCount]

/-- The column "written by" of R15, read by command. -/
def codesWrittenBy : Instr → List Byte
  | .crcInit | .crcUpd _ | .crcFin | .bufClr | .decClr => [0x00#8]
  | .bufPush _ => [0x00#8, 0xC1#8]
  | .frmFind => [0x01#8, 0x80#8]
  | .frmVal => [0x02#8, 0x81#8, 0xC2#8]
  | .frmSkip => [0x00#8, 0xC2#8]
  | .decPut => [0x00#8, 0xC3#8]

/-- The three CRC commands (R92). -/
def isCrc : Instr → Bool
  | .crcInit | .crcUpd _ | .crcFin => true
  | .bufClr | .bufPush _ | .frmFind | .frmVal | .frmSkip | .decClr | .decPut => false

/-- The example frame of R103, with the checksum it prints. -/
def frameAB : List Byte :=
  [0x1B#8, 0x1B#8, 0x1B#8, 0x1B#8, 0x01#8, 0x01#8, 0x01#8, 0x01#8, 0x41#8, 0x42#8,
    0x1B#8, 0x1B#8, 0x1B#8, 0x1B#8, 0x1A#8, 0x00#8, 0x5B#8, 0xD2#8]

/-- The buffer holds exactly these bytes. -/
def Holds (s : State) (bytes : List Byte) : Prop := s.len = bytes.length ∧ ∀ k (h : k < bytes.length), bufByte s k = bytes[k]

end Sys2Proof.Spec

open Sys2Proof.Spec

/-! ## Encodings -/

/-- R62: the ten words, by `cmd AND mask = match`; a word that meets no row is illegal. -/
def Obligations.CommandTableDecodes : Prop :=
  ∀ w : Word,
    (w &&& 0xFFFF#16 = 0x1000#16 → decode w = .ok .crcInit) ∧
    (w &&& 0xFF00#16 = 0x1100#16 → decode w = .ok (.crcUpd (w.setWidth 8))) ∧
    (w &&& 0xFFFF#16 = 0x1200#16 → decode w = .ok .crcFin) ∧
    (w &&& 0xFFFF#16 = 0x2000#16 → decode w = .ok .bufClr) ∧
    (w &&& 0xFF00#16 = 0x2100#16 → decode w = .ok (.bufPush (w.setWidth 8))) ∧
    (w &&& 0xFFFF#16 = 0x3000#16 → decode w = .ok .frmFind) ∧
    (w &&& 0xFFFF#16 = 0x3100#16 → decode w = .ok .frmVal) ∧
    (w &&& 0xFFFF#16 = 0x3200#16 → decode w = .ok .frmSkip) ∧
    (w &&& 0xFFFF#16 = 0x4000#16 → decode w = .ok .decClr) ∧
    (w &&& 0xFFFF#16 = 0x4100#16 → decode w = .ok .decPut) ∧
    (w ∉ [0x1000#16, 0x1200#16, 0x2000#16, 0x3000#16, 0x3100#16, 0x3200#16, 0x4000#16, 0x4100#16] →
      w &&& 0xFF00#16 ≠ 0x1100#16 → w &&& 0xFF00#16 ≠ 0x2100#16 → ∃ e, decode w = .error e)

/-- Decoding the word of any command gives the command back, its byte at every value. -/
def Obligations.DecodeOfEncodeIsTheCommand : Prop := ∀ i : Instr, decode (encode i) = .ok i

/-- A word that decodes is the word of the command it decodes to: no two words mean one command. -/
def Obligations.EncodeOfDecodeIsTheWord : Prop := ∀ (w : Word) (i : Instr), decode w = .ok i → encode i = w

/-- Words written out from R62 and R65 decode to the commands they stand for. -/
def Obligations.SampleWordsDecode : Prop :=
  decode 0b0001000000000000#16 = .ok .crcInit ∧ decode 0b0001000101000001#16 = .ok (.crcUpd 0x41#8) ∧
  decode 0b0010000100011011#16 = .ok (.bufPush 0x1B#8) ∧ decode 0b0011000100000000#16 = .ok .frmVal ∧
  decode 0b0100000100000000#16 = .ok .decPut ∧ decode 0x0000#16 = .error (.unassignedOp 0x00#8) ∧
  decode 0x1001#16 = .error (.nonZeroImm 0x10#8 0x01#8)

/-- R64: which words are illegal, that 520 are legal and 65016 illegal, and that an illegal word writes 0xC0 to
`status` and changes nothing else. -/
def Obligations.IllegalWordsWriteOnlyStatus : Prop :=
  (∀ w : Word, (∃ e, decode w = .error e) ↔ Illegal w) ∧
  (∃ legal : List Word, legal.Nodup ∧ legal.length = 520 ∧ ∀ w, w ∈ legal ↔ ¬ Illegal w) ∧
  (∃ illegal : List Word, illegal.Nodup ∧ illegal.length = 65016 ∧ ∀ w, w ∈ illegal ↔ Illegal w) ∧
  ∀ (w : Word) (s : State), Illegal w → runCommand w s = .next { s with status := 0xC0#8 }

/-! ## The step -/

/-- A step whose next host action is to issue a word that decodes runs the command it decodes to, the action taken off
the host's list. That the host's actions stand in a list is the model's choice (log entry 4). -/
def Obligations.StepRunsTheDecodedCommand : Prop :=
  ∀ (s : State) (w : Word) (rest : List HostAction) (i : Instr),
    s.pending = .issue w :: rest → decode w = .ok i → step s = exec i { s with pending := rest }

/-- R166: an illegal word writes 0xC0 to `status` and nothing else, and the next command is accepted as usual. The
host's list is the model's choice (log entry 4). -/
def Obligations.IllegalCommandThenNextCommand : Prop :=
  ∀ (s : State) (w w' : Word) (rest : List HostAction) (i : Instr),
    s.pending = .issue w :: .issue w' :: rest → Illegal w → decode w' = .ok i →
    step s = .next { s with pending := .issue w' :: rest, status := 0xC0#8 } ∧
    step { s with pending := .issue w' :: rest, status := 0xC0#8 } =
      exec i { s with pending := rest, status := 0xC0#8 }

/-- With no host action the block holds its state (R177). The idle step is the model's (log entry 4). -/
def Obligations.IdleStepHoldsTheState : Prop := ∀ s : State, s.pending = [] → step s = .next s

/-- The record the host drives is the record the DEC.PUT after it samples (R72). The host's list is the model's
(log entry 4). -/
def Obligations.DrivenRecordIsTheOneDecorated : Prop :=
  ∀ (s : State) (r : Record) (rest : List HostAction),
    s.pending = .drivePort r :: .issue 0x4100#16 :: rest →
    ∃ t, step s = .next t ∧ step t = exec .decPut { s with port := r, pending := rest }

/-- R190 and R23: the reset input puts every register at its reset value, empties the buffer and the map, and leaves
the read-only memories; the host's own side stays (log entry 4). -/
def Obligations.ResetInputGivesResetState : Prop :=
  ∀ (s : State) (rest : List HostAction), s.pending = .reset :: rest →
    ∃ t, step s = .next t ∧ (∀ r, readReg t r = resetValue r) ∧
      (∀ i, bufReadPort t i = ⟨0x00#8, false⟩) ∧ (∀ k, (mapReadPort t k).mapOk = false) ∧ t.map = [] ∧
      t.unitRom = s.unitRom ∧ t.descRom = s.descRom ∧ t.params = s.params ∧ t.port = s.port ∧ t.pending = rest

/-- R23 for the state the machine starts in, for every choice of the OPEN parameters and tables. -/
def Obligations.ResetRegisterValues : Prop :=
  ∀ (p : Params) (u : UnitRom) (d : DescRom),
    (∀ r, readReg (State.resetWith p u d) r = resetValue r) ∧
    (∀ i, bufReadPort (State.resetWith p u d) i = ⟨0x00#8, false⟩) ∧
    (State.resetWith p u d).map = [] ∧
    (State.resetWith p u d).unitRom = u ∧ (State.resetWith p u d).descRom = d

/-! ## The commands -/

/-- R86. -/
def Obligations.CrcInitSetsTheStartValue : Prop :=
  decode 0x1000#16 = .ok .crcInit ∧
  ∀ s : State, exec .crcInit s = .next { s with crcAcc := 0xFFFF#16, status := 0x00#8 }

/-- R87, with R82's update written out and R87's example. -/
def Obligations.CrcUpdStepsTheAccumulator : Prop :=
  (∀ bb : Byte, decode (0x1100#16 ||| bb.setWidth 16) = .ok (.crcUpd bb)) ∧
  (∀ (bb : Byte) (s : State), exec (.crcUpd bb) s =
    .next { s with
      crcAcc := crcTable (bb ^^^ s.crcAcc.setWidth 8) ^^^ (s.crcAcc >>> 8)
      status := 0x00#8 }) ∧
  ∀ s : State, s.crcAcc = 0xFFFF#16 → exec (.crcUpd 0x41#8) s = .next { s with crcAcc := 0x5C0A#16, status := 0x00#8 }

/-- R88, with its corner case (straight after CRC.INIT) and its example. -/
def Obligations.CrcFinGivesTheSwappedComplement : Prop :=
  decode 0x1200#16 = .ok .crcFin ∧
  (∀ s : State, exec .crcFin s =
    .next { s with
      crcResult := ((s.crcAcc ^^^ 0xFFFF#16) <<< 8) ||| ((s.crcAcc ^^^ 0xFFFF#16) >>> 8)
      status := 0x00#8 }) ∧
  (∀ s t : State, exec .crcInit s = .next t →
    exec .crcFin t = .next { t with crcResult := 0x0000#16, status := 0x00#8 }) ∧
  ∀ s : State, s.crcAcc = 0xCE10#16 → exec .crcFin s = .next { s with crcResult := 0xEF31#16, status := 0x00#8 }

/-- The registers BUF.CLR writes are R101's. That it also empties the buffer's storage, although R101 names only `len`, is
the model's choice (log entry 3). -/
def Obligations.BufClrEmptiesTheBuffer : Prop :=
  decode 0x2000#16 = .ok .bufClr ∧
  ∀ s : State, exec .bufClr s =
    .next { s with buf := [], len := 0, scanOrigin := 0, cand := none, frm := none, status := 0x00#8 }

/-- R102: the byte is appended at index `len`, or BufOverflow on a full buffer; every byte at another index reads as
before, whatever the buffer's storage, and the appended one reads back from a canonical storage. A held candidate that
is right stays right. The canonical storage, that the byte reads back from it and that it is kept, is the model's form
of `buf` and no part of R102 (log entry 3). -/
def Obligations.BufPushAppendsOneByte : Prop :=
  (∀ bb : Byte, decode (0x2100#16 ||| bb.setWidth 16) = .ok (.bufPush bb)) ∧
  ∀ (bb : Byte) (s : State),
    (s.len = s.params.bufCap → exec (.bufPush bb) s = .next { s with status := 0xC1#8 }) ∧
    (s.len ≠ s.params.bufCap → ∃ t, exec (.bufPush bb) s = .next t ∧
      t = { s with buf := t.buf, len := s.len + 1, status := 0x00#8 } ∧
      (∀ a, a ≠ s.len → bufByte t a = bufByte s a) ∧
      (s.BufferOk → bufByte t s.len = bb ∧ Memory.wf t.buf) ∧
      (∀ c, s.cand = some c → s.CandidateOk c → t.cand = some c ∧ t.CandidateOk c))

/-- R103: the candidate is the first START at or after `scan_origin` and the first END at or after it, when the span to
seven past END's index lies in the buffer; else IncompleteFrame, the earlier candidate and view dropped all the same.
A second FRM.FIND gives the same result. R103's example. -/
def Obligations.FrmFindHoldsTheFirstCandidate : Prop :=
  decode 0x3000#16 = .ok .frmFind ∧
  (∀ (s : State) (p0 p1 : Nat), IsFirstMatch s startMarker s.scanOrigin p0 → IsFirstMatch s endMarker p0 p1 →
    p1 + 7 < s.len →
    exec .frmFind s = .next { s with cand := some ⟨p0, p1, p1 + 7⟩, frm := none, status := 0x01#8 }) ∧
  (∀ s : State,
    (∀ p0 p1, IsFirstMatch s startMarker s.scanOrigin p0 → IsFirstMatch s endMarker p0 p1 → s.len ≤ p1 + 7) →
    exec .frmFind s = .next { s with cand := none, frm := none, status := 0x80#8 }) ∧
  (∀ s t : State, exec .frmFind s = .next t → exec .frmFind t = .next t) ∧
  ∀ s : State, Holds s frameAB → s.scanOrigin = 0 →
    exec .frmFind s = .next { s with cand := some ⟨0, 10, 17⟩, frm := none, status := 0x01#8 }

/-- R120, with its example. The premise `cand_end = cand_endm + 7` is part of R14's invariant, which every step keeps
(`InvariantKeptByStep`); without a premise the command still completes. Repeated, it gives the same result, and no
other command writes the two checksum registers; the covered span of a candidate of the invariant has `p1 - p0 + 6`
bytes, at least 14. -/
def Obligations.FrmValComparesTheChecksums : Prop :=
  decode 0x3100#16 = .ok .frmVal ∧
  (∀ s : State, s.cand = none → exec .frmVal s = .next { s with status := 0xC2#8 }) ∧
  (∀ (s : State) (c : Candidate), s.cand = some c → ∃ t, exec .frmVal s = .next t ∧ t.cand = some c) ∧
  (∀ (s : State) (c : Candidate) (emb comp : Word), s.cand = some c → c.candEnd = c.candEndm + 7 →
    emb.toNat = (bufByte s (c.candEnd - 1)).toNat * 256 + (bufByte s c.candEnd).toNat →
    comp = checksum (bufSpan s c.candStart (c.candEnd - 2)) →
    (comp = emb → exec .frmVal s = .next { s with
      chkEmb := emb, chkComp := comp, status := 0x02#8
      frm := some ⟨c.candStart, c.candEnd - 2, c.candStart + 8, c.candEndm - c.candStart - 8⟩ }) ∧
    (comp ≠ emb → exec .frmVal s = .next { s with
      chkEmb := emb, chkComp := comp, status := 0x81#8, frm := none })) ∧
  (∀ s t : State, exec .frmVal s = .next t → exec .frmVal t = .next t) ∧
  (∀ (i : Instr) (s t : State), i ≠ .frmVal → exec i s = .next t → t.chkEmb = s.chkEmb ∧ t.chkComp = s.chkComp) ∧
  (∀ (s : State) (c : Candidate), s.Inv → s.cand = some c →
    (bufSpan s c.candStart (c.candEnd - 2)).length = c.candEndm - c.candStart + 6 ∧
      14 ≤ (bufSpan s c.candStart (c.candEnd - 2)).length) ∧
  ∀ s : State, Holds s frameAB → s.cand = some ⟨0, 10, 17⟩ →
    exec .frmVal s = .next { s with
      chkEmb := 0x5BD2#16, chkComp := 0x5BD2#16, frm := some ⟨0, 15, 8, 2⟩, status := 0x02#8 }

/-- R124: with a candidate the search resumes past its START; a second FRM.SKIP at once raises NoCandidate; from a state
of the invariant `scan_origin` grows and stays within the buffer. -/
def Obligations.FrmSkipResumesPastStart : Prop :=
  decode 0x3200#16 = .ok .frmSkip ∧
  ∀ s : State,
    (s.cand = none → exec .frmSkip s = .next { s with status := 0xC2#8 }) ∧
    (∀ c, s.cand = some c → exec .frmSkip s =
      .next { s with scanOrigin := c.candStart + 1, cand := none, frm := none, status := 0x00#8 }) ∧
    (∀ t, exec .frmSkip s = .next t → exec .frmSkip t = .next { t with status := 0xC2#8 }) ∧
    (∀ c, s.cand = some c → s.Inv → s.scanOrigin < c.candStart + 1 ∧ c.candStart + 1 ≤ s.len)

/-- R143. -/
def Obligations.DecClrEmptiesTheMap : Prop :=
  decode 0x4000#16 = .ok .decClr ∧
  ∀ s : State, exec .decClr s = .next { s with map := [], status := 0x00#8 } ∧
    ∀ t, exec .decClr s = .next t → ∀ k, (mapReadPort t k).mapOk = false

/-- R144, with its example: the record's decoration overwrites in place the entry of its identifier, also in a full
map; else MapFull when the map is full; else it is appended. -/
def Obligations.DecPutStoresTheDecoration : Prop :=
  decode 0x4100#16 = .ok .decPut ∧
  (∀ (s : State) (ent : Entry),
    ent.id = s.port.id → ent.value = s.port.value → ent.unit = s.port.unit →
    ent.scale = (if s.port.hasScale then some s.port.scale else none) →
    ent.unitLabel = s.unitRom.lookup s.port.unit → ent.description = s.descRom.lookup s.port.id →
    (∀ k (h : k < s.map.length), s.map[k].id = s.port.id →
      (∀ j (g : j < s.map.length), j < k → s.map[j].id ≠ s.port.id) →
      exec .decPut s = .next { s with map := s.map.set k ent, status := 0x00#8 }) ∧
    ((∀ e ∈ s.map, e.id ≠ s.port.id) → s.map.length = s.params.mapCap →
      exec .decPut s = .next { s with status := 0xC3#8 }) ∧
    ((∀ e ∈ s.map, e.id ≠ s.port.id) → s.map.length ≠ s.params.mapCap →
      exec .decPut s = .next { s with map := s.map ++ [ent], status := 0x00#8 })) ∧
  ∀ s : State, s.map = [] → s.params.mapCap ≠ 0 → s.unitRom = pinnedUnits → s.descRom = Config.resetDescRom →
    s.port = ⟨[1#8, 0#8, 16#8, 7#8, 0#8, 255#8], 0x12C, 27#8, true, 0xFF⟩ →
    ∃ t, exec .decPut s = .next t ∧ readReg t .mapCount = 1 ∧ readReg t .status = 0 ∧
      (mapReadPort t 0).unitHit = true ∧ (mapReadPort t 0).unitLabel = [0x57#8] ∧ (mapReadPort t 0).descHit = true

/-! ## What a command leaves alone -/

/-- The column "written by" of R14: every command completes in every state, and a register it does not write reads as
before. -/
def Obligations.RegistersChangeOnlyAsListed : Prop :=
  ∀ (i : Instr) (s : State), ∃ t, exec i s = .next t ∧ ∀ r, r ∉ writtenBy i → readReg t r = readReg s r

/-- What is no register: only BUF.PUSH and BUF.CLR change a byte of the buffer, BUF.PUSH at index `len` alone; only
DEC.CLR and DEC.PUT change the map (R40, R20, R41); no command changes the parameters, the tables or the host's side. The port and the host's list as fields of the state are
the model's choice (log entries 2 and 4). -/
def Obligations.CommandsLeaveTheRestAlone : Prop :=
  ∀ (i : Instr) (s t : State), exec i s = .next t →
    t.params = s.params ∧ t.unitRom = s.unitRom ∧ t.descRom = s.descRom ∧ t.port = s.port ∧ t.pending = s.pending ∧
    (i ≠ .decClr → i ≠ .decPut → t.map = s.map) ∧
    (∀ bb, i = .bufPush bb → ∀ a, a ≠ s.len → bufByte t a = bufByte s a) ∧
    ((∀ bb, i ≠ .bufPush bb) → i ≠ .bufClr → ∀ a, bufByte t a = bufByte s a)

/-- R15: every command writes one of its codes, a word that is no command writes 0xC0, and no command reads
`status`. -/
def Obligations.StatusIsWrittenAndNeverRead : Prop :=
  (∀ (i : Instr) (s : State), ∃ t, exec i s = .next t ∧ t.status ∈ codesWrittenBy i ∧
    ∀ x : Byte, exec i { s with status := x } = .next t) ∧
  ∀ (w : Word) (s : State), (∀ i, decode w ≠ .ok i) → ∃ t, runCommand w s = .next t ∧ t.status = 0xC0#8 ∧
    ∀ x : Byte, runCommand w { s with status := x } = .next t

/-- R166 to R169: a command that leaves a code with bits 7 and 6 set has changed nothing but `status`. -/
def Obligations.AddedConditionsChangeNothingElse : Prop :=
  ∀ (i : Instr) (s t : State), exec i s = .next t → t.status &&& 0xC0#8 = 0xC0#8 → t = { s with status := t.status }

/-- R18, R19: no step, not even reset, changes a table. -/
def Obligations.TablesNeverChange : Prop :=
  ∀ s t : State, step s = .next t → t.unitRom = s.unitRom ∧ t.descRom = s.descRom ∧ t.params = s.params

/-- R40: a step empties the buffer or keeps every byte it holds and appends at most one. -/
def Obligations.AppendedBytesStay : Prop :=
  ∀ s t : State, step s = .next t →
    t.len = 0 ∨ (s.len ≤ t.len ∧ t.len ≤ s.len + 1 ∧ ∀ a, a < s.len → bufByte t a = bufByte s a)

/-- R151: what moves `scan_origin`, in full; from a state that meets the invariant it never decreases except to 0 and
never exceeds `len`. The step, which takes the host's next action, and the drive of the port as an action are the
model's choice (log entry 4). -/
def Obligations.ScanOriginMovesOnlyAsListed : Prop :=
  (∀ (i : Instr) (s t : State), exec i s = .next t →
    (i = .bufClr → t.scanOrigin = 0) ∧
    (∀ c, i = .frmSkip → s.cand = some c → t.scanOrigin = c.candStart + 1) ∧
    (i ≠ .bufClr → i ≠ .frmSkip → t.scanOrigin = s.scanOrigin) ∧
    (i = .frmSkip → s.cand = none → t.scanOrigin = s.scanOrigin)) ∧
  (∀ (w : Word) (s t : State), (∀ i, decode w ≠ .ok i) → runCommand w s = .next t → t.scanOrigin = s.scanOrigin) ∧
  (∀ (r : Record) (s t : State), perform (.drivePort r) s = .next t → t.scanOrigin = s.scanOrigin) ∧
  (∀ s : State, (resetBlock s).scanOrigin = 0) ∧
  ∀ s t : State, s.Inv → step s = .next t → (t.scanOrigin = 0 ∨ s.scanOrigin ≤ t.scanOrigin) ∧ t.scanOrigin ≤ t.len

/-- R22, R92: a command that is not a CRC command neither reads nor writes `crc_acc` and `crc_result`; FRM.VAL's
working value is not `crc_acc`. -/
def Obligations.OtherCommandsIgnoreTheCrcRegisters : Prop :=
  ∀ (i : Instr) (s : State), isCrc i = false → ∃ t, exec i s = .next t ∧
    t.crcAcc = s.crcAcc ∧ t.crcResult = s.crcResult ∧
    ∀ a r : Word, exec i { s with crcAcc := a, crcResult := r } = .next { t with crcAcc := a, crcResult := r }

/-- R191: BUF.CLR, DEC.CLR, CRC.INIT bring the block to its reset state but for `crc_result`, `chk_emb`, `chk_comp`;
and no command's effect on anything else depends on those three. The emptied storage is the model's (log entry 3). -/
def Obligations.ClearingCommandsNearlyReset : Prop :=
  (∀ s : State, performAll [issueInstr .bufClr, issueInstr .decClr, issueInstr .crcInit] s =
    .next { resetBlock s with crcResult := s.crcResult, chkEmb := s.chkEmb, chkComp := s.chkComp }) ∧
  ∀ (i : Instr) (s : State) (a b c : Word), ∃ t u, exec i s = .next t ∧
    exec i { s with crcResult := a, chkEmb := b, chkComp := c } = .next u ∧
    u = { t with crcResult := u.crcResult, chkEmb := u.chkEmb, chkComp := u.chkComp }

/-! ## The invariant -/

/-- The state after reset meets the invariant, for every choice of the OPEN parameters and tables that meets R5, and
for the choice of log entry 1. -/
def Obligations.InvariantAtReset : Prop :=
  (∀ (p : Params) (u : UnitRom) (d : DescRom), (State.resetWith p u d).ConfigOk → (State.resetWith p u d).Inv) ∧
  State.reset.Inv

/-- R14's invariants, R15's codes, R20's widths and the buffer's canonical form (log entry 3) hold after every step from a
state where they hold; the step takes the host's list, the model's choice (log entry 4). -/
def Obligations.InvariantKeptByStep : Prop := ∀ s t : State, s.Inv → step s = .next t → t.Inv

/-- R13, R14: every register fits its width, every index register being at most `BUF_CAP`. -/
def Obligations.RegistersFitTheirWidths : Prop :=
  ∀ s : State, s.Inv → (∀ r, readReg s r < 2 ^ regWidth s.params r) ∧
    ∀ r ∈ [Reg.len, .scanOrigin, .candStart, .candEndm, .candEnd, .frmStart, .frmLast, .plStart, .plLen],
      readReg s r ≤ s.params.bufCap ∧ s.params.bufCap < 2 ^ s.params.idxW ∧
        ∀ n, s.params.bufCap < 2 ^ n → s.params.idxW ≤ n

/-! ## The read ports -/

/-- R44. -/
def Obligations.BufferReadPortOutputs : Prop :=
  ∀ (s : State) (rdIdx : Nat),
    (rdIdx < s.len → bufReadPort s rdIdx = ⟨bufByte s rdIdx, true⟩) ∧
    (s.len ≤ rdIdx → bufReadPort s rdIdx = ⟨0x00#8, false⟩)

/-- R45 with R20's fields: an absent scale, label or description reads as zero or the empty string with its bit 0. -/
def Obligations.MapReadPortOutputs : Prop :=
  ∀ (s : State) (mapIdx : Nat),
    (∀ e, s.map[mapIdx]? = some e → ∃ o, mapReadPort s mapIdx = o ∧ o.mapOk = true ∧
      o.id = e.id ∧ o.value = e.value ∧ o.unit = e.unit ∧
      (∀ x, e.scale = some x → o.hasScale = true ∧ o.scale = x) ∧
      (e.scale = none → o.hasScale = false ∧ o.scale = 0) ∧
      (∀ l, e.unitLabel = some l → o.unitHit = true ∧ o.unitLabel = l) ∧
      (e.unitLabel = none → o.unitHit = false ∧ o.unitLabel = []) ∧
      (∀ d, e.description = some d → o.descHit = true ∧ o.description = d) ∧
      (e.description = none → o.descHit = false ∧ o.description = [])) ∧
    (mapIdx < readReg s .mapCount → ∃ e, s.map[mapIdx]? = some e) ∧
    (readReg s .mapCount ≤ mapIdx → ∃ o, mapReadPort s mapIdx = o ∧ o.mapOk = false ∧
      o.id = List.replicate s.params.idLen 0#8 ∧ o.value = 0 ∧ o.unit = 0#8 ∧ o.hasScale = false ∧ o.scale = 0 ∧
      o.unitHit = false ∧ o.unitLabel = [] ∧ o.descHit = false ∧ o.description = [])

/-- R40, R65 BUF.LOAD: bytes pushed one after another stand in the buffer in their order after those it held. -/
def Obligations.LoadedBytesReadBack : Prop :=
  ∀ (s : State) (bytes : List Byte), s.BufferOk → s.len + bytes.length ≤ s.params.bufCap →
    ∃ t, performAll (pseudoBufLoad bytes) s = .next t ∧ t.len = s.len + bytes.length ∧
      (∀ a, a < s.len → bufByte t a = bufByte s a) ∧
      (∀ k (h : k < bytes.length), bufByte t (s.len + k) = bytes[k]) ∧
      t.cand = s.cand ∧ t.frm = s.frm ∧ t.scanOrigin = s.scanOrigin

/-! ## The Checksum Engine -/

/-- R89: the bit-serial generator and the table form give the same update. -/
def Obligations.BitSerialFormEqualsTableForm : Prop := ∀ (s : Word) (b : Byte), crcStep s b = crcStepSerial s b

/-- R90: the residue property, and that two trailing bytes leave the residue exactly when they are the checksum. -/
def Obligations.ResidueTellsAValidFrame : Prop :=
  (∀ m : List Byte, crcRun 0xFFFF#16 (m ++ checksumBytes (checksum m)) = 0xF0B8#16) ∧
  ∀ (m : List Byte) (hi lo : Byte), crcRun 0xFFFF#16 (m ++ [hi, lo]) = 0xF0B8#16 ↔ (checksum m).toNat = hi.toNat * 256 + lo.toNat

/-- R92: CRC.INIT, CRC.UPD of each byte, CRC.FIN compute `checksum`, whatever commands of the other families come
between them. -/
def Obligations.StreamingCommandsComputeChecksum : Prop :=
  ∀ (bytes : List Byte) (cmds : List Instr) (s : State),
    cmds.filter isCrc = .crcInit :: (bytes.map Instr.crcUpd ++ [.crcFin]) →
    ∃ t, performAll (cmds.map issueInstr) s = .next t ∧ t.crcResult = checksum bytes

/-- R127: flipping one bit of the span the checksum covers turns an accepted candidate into a ChecksumMismatch. -/
def Obligations.SingleBitFlipIsRejected : Prop :=
  ∀ (s s' t : State) (c : Candidate) (j k : Nat),
    s.cand = some c → s'.cand = some c → 2 ≤ c.candEnd → c.candStart ≤ j → j ≤ c.candEnd - 2 → k < 8 →
    (∀ a, a ≠ j → bufByte s' a = bufByte s a) → bufByte s' j = bufByte s j ^^^ (1#8 <<< k) →
    exec .frmVal s = .next t → t.status = 0x02#8 →
    ∃ t', exec .frmVal s' = .next t' ∧ t'.status = 0x81#8 ∧ t'.frm = none

/-! ## The Frame Delimiter and the Frame Validator -/

/-- R105: after a START at `p0` the search for END may begin at `p0` or at `p0 + 8`; so END lies at or past `p0 + 8`
and a frame has at least 16 bytes. -/
def Obligations.SearchForEndMayStartPastStart : Prop :=
  ∀ (s : State) (p0 : Nat), Matches s startMarker p0 →
    firstMatch s endMarker p0 = firstMatch s endMarker (p0 + 8) ∧
    ∀ p1, firstMatch s endMarker p0 = some p1 → p0 + 8 ≤ p1 ∧ 16 ≤ (p1 + 7) - p0 + 1

/-- R106: START does not overlap itself, and a run of five 0x1B before the 0x01 bytes matches at its second byte. -/
def Obligations.StartDoesNotOverlapItself : Prop :=
  (∀ (s : State) (p0 k : Nat), Matches s startMarker p0 → 1 ≤ k → k ≤ 7 → ¬ Matches s startMarker (p0 + k)) ∧
  ∀ s : State, Holds s [0x1B#8, 0x1B#8, 0x1B#8, 0x1B#8, 0x1B#8, 0x01#8, 0x01#8, 0x01#8, 0x01#8] →
    firstMatch s startMarker 0 = some 1

/-- R125: resuming one past START's first byte or just past the whole marker finds the same next START. -/
def Obligations.BothResumePointsFindTheSameStart : Prop :=
  ∀ (s : State) (p : Nat), Matches s startMarker p → firstMatch s startMarker (p + 1) = firstMatch s startMarker (p + 8)

/-- R108: no START, or no END after it, gives IncompleteFrame, whatever the buffer's length. -/
def Obligations.MissingMarkerIsIncomplete : Prop :=
  ∀ s : State,
    (NoMatch s startMarker s.scanOrigin → ∃ t, exec .frmFind s = .next t ∧ t.status = 0x80#8 ∧ t.cand = none) ∧
    (∀ p0, IsFirstMatch s startMarker s.scanOrigin p0 → NoMatch s endMarker p0 →
      ∃ t, exec .frmFind s = .next t ∧ t.status = 0x80#8 ∧ t.cand = none)

/-- R109: the shortest frame has 16 bytes and is found; with 15 bytes or fewer past the origin nothing is. -/
def Obligations.ShortestFrameHasSixteenBytes : Prop :=
  (∀ f : Byte, (wireFrame [] f).length = 16) ∧
  (∀ (s : State) (f : Byte), Holds s (wireFrame [] f) → s.scanOrigin = 0 →
    exec .frmFind s = .next { s with cand := some ⟨0, 8, 15⟩, frm := none, status := 0x01#8 }) ∧
  ∀ s : State, s.len < s.scanOrigin + 16 →
    exec .frmFind s = .next { s with cand := none, frm := none, status := 0x80#8 }

/-- R123, R195: without FRM.SKIP, FRM.FIND after FRM.VAL holds the same candidate again; after FRM.SKIP it holds only
candidates that begin later. -/
def Obligations.OnlySkipMovesPastACandidate : Prop :=
  (∀ (s t u : State) (c : Candidate), s.Inv → s.cand = some c → exec .frmVal s = .next t → exec .frmFind t = .next u →
    u.cand = some c) ∧
  ∀ (s t u : State) (c c' : Candidate), s.cand = some c → exec .frmSkip s = .next t → exec .frmFind t = .next u →
    u.cand = some c' → c.candStart < c'.candStart

/-- R70, R121, R122: while a view is held its bytes are START, the payload the block shows, END and one fill-count byte,
and their checksum is the recorded one. -/
def Obligations.HeldViewHasTheWireFormat : Prop :=
  ∀ s : State, s.Inv → ∀ v, s.frm = some v → ∃ payload fill,
    payloadBytes s = some payload ∧ viewBytes s = some (coveredSpan payload fill) ∧ fill = bufByte s v.frmLast ∧
    s.chkComp = checksum (coveredSpan payload fill)

/-- R126: a frame built with a correct checksum, its payload free of END runs, pushed into an empty buffer, is found by
FRM.FIND and accepted by FRM.VAL, which shows exactly its payload. The empty storage of the empty buffer is the model's form (log entry 3). -/
def Obligations.BuiltFrameIsAccepted : Prop :=
  ∀ (s : State) (payload : List Byte) (fill : Byte),
    s.buf = [] → s.len = 0 → s.scanOrigin = 0 → (wireFrame payload fill).length ≤ s.params.bufCap →
    ¬ endMarker <:+: payload →
    ∃ t u, performAll (pseudoBufLoad (wireFrame payload fill) ++ [issueInstr .frmFind]) s = .next t ∧
      t.status = 0x01#8 ∧ t.cand = some ⟨0, payload.length + 8, payload.length + 15⟩ ∧
      exec .frmVal t = .next u ∧ u.status = 0x02#8 ∧ payloadBytes u = some payload ∧
      viewBytes u = some (coveredSpan payload fill) ∧ u.chkEmb = checksum (coveredSpan payload fill)

/-- R70, R120: FRM.VAL accepts a held candidate exactly when its bytes are a frame of the wire format with a correct
checksum. -/
def Obligations.AcceptedExactlyWhenWellBuilt : Prop :=
  ∀ (s t : State) (c : Candidate), s.Inv → s.cand = some c → exec .frmVal s = .next t →
    (t.status = 0x02#8 ↔ ∃ payload fill, bufSpan s c.candStart c.candEnd = wireFrame payload fill)

/-- R128: a rejected frame, skipped, does not hide a correct frame appended after it. The rejected candidate is the
first START, and no other START lies in the buffer after it. -/
def Obligations.FrameAfterARejectedOneIsAccepted : Prop :=
  ∀ (s : State) (c : Candidate) (payload : List Byte) (fill : Byte),
    s.Inv → s.cand = some c → NoMatch s startMarker (c.candStart + 1) →
    s.len + (wireFrame payload fill).length ≤ s.params.bufCap → ¬ endMarker <:+: payload →
    ∃ t u v, performAll [issueInstr .frmSkip, issueInstr .frmFind] s = .next t ∧ t.status = 0x80#8 ∧
      performAll (pseudoBufLoad (wireFrame payload fill) ++ [issueInstr .frmFind]) t = .next u ∧
      u.cand = some ⟨s.len, s.len + payload.length + 8, s.len + payload.length + 15⟩ ∧
      exec .frmVal u = .next v ∧ v.status = 0x02#8 ∧ payloadBytes v = some payload

/-! ## The Record Decorator -/

/-- R140, R73: every admissible unit table has the three entries of the source; lookup is by exact equality. -/
def Obligations.PinnedUnitsAreFound : Prop :=
  ∀ s : State, UnitRom.wf s.params s.unitRom = true →
    unitLookup s 27#8 = some [0x57#8] ∧ unitLookup s 30#8 = some [0x57#8, 0x68#8] ∧ unitLookup s 33#8 = some [0x41#8] ∧
    ∀ u l, unitLookup s u = some l ↔ (u, l) ∈ s.unitRom

/-- R142, R147: a record of unit 27 whose identifier has a description is decorated with both; a code or an identifier
that is in no table is explicitly absent. -/
def Obligations.DecorationHitsAndMisses : Prop :=
  ∀ (s : State) (d : Str), UnitRom.wf s.params s.unitRom = true → s.map = [] → s.params.mapCap ≠ 0 →
    ∃ t, exec .decPut s = .next t ∧
      (s.port.unit = 27#8 → (mapReadPort t 0).unitHit = true ∧ (mapReadPort t 0).unitLabel = [0x57#8]) ∧
      (descLookup s s.port.id = some d → (mapReadPort t 0).descHit = true ∧ (mapReadPort t 0).description = d) ∧
      ((∀ l, (s.port.unit, l) ∉ s.unitRom) → (mapReadPort t 0).unitHit = false ∧ (mapReadPort t 0).unitLabel = []) ∧
      ((∀ l, (s.port.id, l) ∉ s.descRom) → (mapReadPort t 0).descHit = false ∧ (mapReadPort t 0).description = [])

/-- R145: DEC.CLR and a DEC.PUT of each record leave, for every identifier, the decoration of the last record that has
it, and nothing for an identifier no record has, when the records' identifiers fit the map. That the host drives each
record on the port by an action before its DEC.PUT is the model's choice (log entry 4). -/
def Obligations.LaterRecordsOverwriteEarlierOnes : Prop :=
  ∀ (s : State) (records : List Record),
    (records.map Record.id).dedup.length ≤ s.params.mapCap →
    ∃ t, performAll (pseudoDecorate records) s = .next t ∧ t.status = 0x00#8 ∧
      (t.map.map Entry.id).Nodup ∧
      ∀ id, t.map.find? (fun e => e.id == id) =
        (records.reverse.find? (fun r => r.id == id)).map (decorateRecord s)
end

