-- ==== Sys2Proof/Laws/Checksum.lean ====
section
/-! SUPPORT. Laws of the Checksum Engine: R81's table is the derivation of R80, the shift is linear over XOR, and runs
over joined sequences. -/

namespace Sys2Proof.Machine

/-- Every entry R81 prints is what R80 derives from the polynomial. -/
theorem crcTable_eq_crcDerive : ∀ i : Byte, crcTable i = crcDerive i := by decide +kernel

theorem crcShift_xor (a b : Word) : crcShift (a ^^^ b) = crcShift a ^^^ crcShift b := by
  unfold crcShift
  cases ha : a.getLsbD 0 <;> cases hb : b.getLsbD 0 <;>
    simp only [BitVec.getLsbD_xor, ha, hb, Bool.xor_false, Bool.xor_true, Bool.not_true, Bool.not_false,
      BitVec.ushiftRight_xor_distrib, if_true, if_false, Bool.false_eq_true] <;> ext i <;> simp <;> grind

/-- Shifting is linear over XOR. -/
theorem crcShifts_xor (n : Nat) (a b : Word) : crcShifts n (a ^^^ b) = crcShifts n a ^^^ crcShifts n b := by
  induction n generalizing a b with
  | zero => rfl
  | succ n ih => simp [crcShifts, crcShift_xor, ih]

theorem crcShifts_add (m n : Nat) (c : Word) : crcShifts (m + n) c = crcShifts n (crcShifts m c) := by
  induction m generalizing c with
  | zero => simp [crcShifts]
  | succ m ih => rw [Nat.add_right_comm]; simp [crcShifts, ih]

@[simp] theorem crcRun_nil (s : Word) : crcRun s [] = s := rfl

@[simp] theorem crcRun_cons (s : Word) (b : Byte) (bs : List Byte) : crcRun s (b :: bs) = crcRun (crcStep s b) bs := rfl

@[simp] theorem crcRun_append (s : Word) (as bs : List Byte) : crcRun s (as ++ bs) = crcRun (crcRun s as) bs := by
  simp [crcRun]

/-- Swapping the bytes twice changes nothing. -/
theorem swap16_swap16 (v : Word) : swap16 (swap16 v) = v := by
  unfold swap16 joinBytes; ext i hi; interval_cases i <;> simp

/-- The final XOR and swap lose nothing. -/
theorem crcFinal_injective {a b : Word} (h : crcFinal a = crcFinal b) : a = b := by
  have := congrArg swap16 h
  simpa [crcFinal, swap16_swap16, BitVec.xor_right_inj, BitVec.xor_left_inj] using this

end Sys2Proof.Machine
end

