-- ==== Sys2Proof/Laws/Decode.lean ====
section
/-! SUPPORT. Two bytes as a word, and the two fields of a command word. -/

namespace Sys2Proof

theorem joinBytes_toNat (hi lo : Byte) : (joinBytes hi lo).toNat = hi.toNat * 256 + lo.toNat := by
  have h1 := hi.isLt
  have h2 := lo.isLt
  unfold joinBytes
  rw [BitVec.toNat_or, BitVec.toNat_shiftLeft, BitVec.toNat_setWidth, BitVec.toNat_setWidth, Nat.shiftLeft_eq,
    Nat.mod_eq_of_lt (by omega : hi.toNat < 2 ^ 16), Nat.mod_eq_of_lt (by omega : lo.toNat < 2 ^ 16),
    Nat.mod_eq_of_lt (by omega), Nat.mul_comm, ← Nat.two_pow_add_eq_or_of_lt h2]

/-- The high byte of a joined pair is the first byte. -/
theorem joinBytes_high (hi lo : Byte) : (joinBytes hi lo).extractLsb' 8 8 = hi := by
  unfold joinBytes; ext i h; interval_cases i <;> simp

/-- The low byte of a joined pair is the second byte. -/
theorem joinBytes_low (hi lo : Byte) : (joinBytes hi lo).extractLsb' 0 8 = lo := by
  unfold joinBytes; ext i h; interval_cases i <;> simp

theorem opField_commandWord (op imm : Byte) : opField (commandWord op imm) = op := joinBytes_high op imm

theorem immField_commandWord (op imm : Byte) : immField (commandWord op imm) = imm := joinBytes_low op imm

end Sys2Proof
end

