-- ==== Sys2Proof/Laws/Decorate.lean ====
section
/-! SUPPORT. What the two table lookups and the map's index answer, once. -/

namespace Sys2Proof.Machine

/-- A lookup that hits answers an entry of the table. -/
theorem lookup_mem {α β : Type} [BEq α] [LawfulBEq α] {a : α} {b : β} {l : List (α × β)} (h : l.lookup a = some b) :
    (a, b) ∈ l := by
  induction l with
  | nil => cases h
  | cons x l ih =>
    obtain ⟨k, v⟩ := x
    rw [List.lookup_cons] at h
    split at h
    · rename_i hk; cases h; simp_all
    · exact List.mem_cons_of_mem _ (ih h)

/-- A lookup that misses leaves no entry with that key. -/
theorem lookup_eq_none {α β : Type} [BEq α] [LawfulBEq α] {a : α} {l : List (α × β)} (h : l.lookup a = none) (b : β) :
    (a, b) ∉ l := by
  induction l with
  | nil => simp
  | cons x l ih =>
    obtain ⟨k, v⟩ := x
    rw [List.lookup_cons] at h
    split at h
    · cases h
    · rename_i hk
      intro hm
      rcases List.mem_cons.mp hm with e | hm
      · cases e; simp at hk
      · exact ih h hm

/-- The index of an identifier is that of the first entry that has it (R144). -/
theorem mapIndex_eq_some_iff {m : List Entry} {id : Ident} {k : Nat} :
    mapIndex m id = some k ↔ ∃ h : k < m.length, m[k].id = id ∧ ∀ j (g : j < k), m[j].id ≠ id := by
  simp [mapIndex, List.findIdx?_eq_some_iff_getElem]

/-- No index: no entry has the identifier (R144). -/
theorem mapIndex_eq_none_iff {m : List Entry} {id : Ident} : mapIndex m id = none ↔ ∀ e ∈ m, e.id ≠ id := by
  simp [mapIndex, List.findIdx?_eq_none_iff]

end Sys2Proof.Machine
end

