-- ==== Sys2Proof/Laws/State.lean ====
section
/-! SUPPORT. One lemma per field per named update of the state, and what ends a command: later proofs cite these and
unfold no update. -/

namespace Sys2Proof.Machine

@[simp] theorem setStatus_params (c : StatusCode) (s : State) : (setStatus c s).params = s.params := rfl
@[simp] theorem setStatus_unitRom (c : StatusCode) (s : State) : (setStatus c s).unitRom = s.unitRom := rfl
@[simp] theorem setStatus_descRom (c : StatusCode) (s : State) : (setStatus c s).descRom = s.descRom := rfl
@[simp] theorem setStatus_buf (c : StatusCode) (s : State) : (setStatus c s).buf = s.buf := rfl
@[simp] theorem setStatus_len (c : StatusCode) (s : State) : (setStatus c s).len = s.len := rfl
@[simp] theorem setStatus_scanOrigin (c : StatusCode) (s : State) : (setStatus c s).scanOrigin = s.scanOrigin := rfl
@[simp] theorem setStatus_cand (c : StatusCode) (s : State) : (setStatus c s).cand = s.cand := rfl
@[simp] theorem setStatus_frm (c : StatusCode) (s : State) : (setStatus c s).frm = s.frm := rfl
@[simp] theorem setStatus_crcAcc (c : StatusCode) (s : State) : (setStatus c s).crcAcc = s.crcAcc := rfl
@[simp] theorem setStatus_crcResult (c : StatusCode) (s : State) : (setStatus c s).crcResult = s.crcResult := rfl
@[simp] theorem setStatus_chkEmb (c : StatusCode) (s : State) : (setStatus c s).chkEmb = s.chkEmb := rfl
@[simp] theorem setStatus_chkComp (c : StatusCode) (s : State) : (setStatus c s).chkComp = s.chkComp := rfl
@[simp] theorem setStatus_map (c : StatusCode) (s : State) : (setStatus c s).map = s.map := rfl
@[simp] theorem setStatus_status (c : StatusCode) (s : State) : (setStatus c s).status = statusBits c := rfl
@[simp] theorem setStatus_port (c : StatusCode) (s : State) : (setStatus c s).port = s.port := rfl
@[simp] theorem setStatus_pending (c : StatusCode) (s : State) : (setStatus c s).pending = s.pending := rfl

@[simp] theorem clearView_params (s : State) : (clearView s).params = s.params := rfl
@[simp] theorem clearView_unitRom (s : State) : (clearView s).unitRom = s.unitRom := rfl
@[simp] theorem clearView_descRom (s : State) : (clearView s).descRom = s.descRom := rfl
@[simp] theorem clearView_buf (s : State) : (clearView s).buf = s.buf := rfl
@[simp] theorem clearView_len (s : State) : (clearView s).len = s.len := rfl
@[simp] theorem clearView_scanOrigin (s : State) : (clearView s).scanOrigin = s.scanOrigin := rfl
@[simp] theorem clearView_cand (s : State) : (clearView s).cand = s.cand := rfl
@[simp] theorem clearView_frm (s : State) : (clearView s).frm = none := rfl
@[simp] theorem clearView_crcAcc (s : State) : (clearView s).crcAcc = s.crcAcc := rfl
@[simp] theorem clearView_crcResult (s : State) : (clearView s).crcResult = s.crcResult := rfl
@[simp] theorem clearView_chkEmb (s : State) : (clearView s).chkEmb = s.chkEmb := rfl
@[simp] theorem clearView_chkComp (s : State) : (clearView s).chkComp = s.chkComp := rfl
@[simp] theorem clearView_map (s : State) : (clearView s).map = s.map := rfl
@[simp] theorem clearView_status (s : State) : (clearView s).status = s.status := rfl
@[simp] theorem clearView_port (s : State) : (clearView s).port = s.port := rfl
@[simp] theorem clearView_pending (s : State) : (clearView s).pending = s.pending := rfl

@[simp] theorem clearCandidate_params (s : State) : (clearCandidate s).params = s.params := rfl
@[simp] theorem clearCandidate_unitRom (s : State) : (clearCandidate s).unitRom = s.unitRom := rfl
@[simp] theorem clearCandidate_descRom (s : State) : (clearCandidate s).descRom = s.descRom := rfl
@[simp] theorem clearCandidate_buf (s : State) : (clearCandidate s).buf = s.buf := rfl
@[simp] theorem clearCandidate_len (s : State) : (clearCandidate s).len = s.len := rfl
@[simp] theorem clearCandidate_scanOrigin (s : State) : (clearCandidate s).scanOrigin = s.scanOrigin := rfl
@[simp] theorem clearCandidate_cand (s : State) : (clearCandidate s).cand = none := rfl
@[simp] theorem clearCandidate_frm (s : State) : (clearCandidate s).frm = none := rfl
@[simp] theorem clearCandidate_crcAcc (s : State) : (clearCandidate s).crcAcc = s.crcAcc := rfl
@[simp] theorem clearCandidate_crcResult (s : State) : (clearCandidate s).crcResult = s.crcResult := rfl
@[simp] theorem clearCandidate_chkEmb (s : State) : (clearCandidate s).chkEmb = s.chkEmb := rfl
@[simp] theorem clearCandidate_chkComp (s : State) : (clearCandidate s).chkComp = s.chkComp := rfl
@[simp] theorem clearCandidate_map (s : State) : (clearCandidate s).map = s.map := rfl
@[simp] theorem clearCandidate_status (s : State) : (clearCandidate s).status = s.status := rfl
@[simp] theorem clearCandidate_port (s : State) : (clearCandidate s).port = s.port := rfl
@[simp] theorem clearCandidate_pending (s : State) : (clearCandidate s).pending = s.pending := rfl

@[simp] theorem holdCandidate_params (c : Candidate) (s : State) : (holdCandidate c s).params = s.params := rfl
@[simp] theorem holdCandidate_unitRom (c : Candidate) (s : State) : (holdCandidate c s).unitRom = s.unitRom := rfl
@[simp] theorem holdCandidate_descRom (c : Candidate) (s : State) : (holdCandidate c s).descRom = s.descRom := rfl
@[simp] theorem holdCandidate_buf (c : Candidate) (s : State) : (holdCandidate c s).buf = s.buf := rfl
@[simp] theorem holdCandidate_len (c : Candidate) (s : State) : (holdCandidate c s).len = s.len := rfl
@[simp] theorem holdCandidate_scanOrigin (c : Candidate) (s : State) : (holdCandidate c s).scanOrigin = s.scanOrigin := rfl
@[simp] theorem holdCandidate_cand (c : Candidate) (s : State) : (holdCandidate c s).cand = some c := rfl
@[simp] theorem holdCandidate_frm (c : Candidate) (s : State) : (holdCandidate c s).frm = s.frm := rfl
@[simp] theorem holdCandidate_crcAcc (c : Candidate) (s : State) : (holdCandidate c s).crcAcc = s.crcAcc := rfl
@[simp] theorem holdCandidate_crcResult (c : Candidate) (s : State) : (holdCandidate c s).crcResult = s.crcResult := rfl
@[simp] theorem holdCandidate_chkEmb (c : Candidate) (s : State) : (holdCandidate c s).chkEmb = s.chkEmb := rfl
@[simp] theorem holdCandidate_chkComp (c : Candidate) (s : State) : (holdCandidate c s).chkComp = s.chkComp := rfl
@[simp] theorem holdCandidate_map (c : Candidate) (s : State) : (holdCandidate c s).map = s.map := rfl
@[simp] theorem holdCandidate_status (c : Candidate) (s : State) : (holdCandidate c s).status = s.status := rfl
@[simp] theorem holdCandidate_port (c : Candidate) (s : State) : (holdCandidate c s).port = s.port := rfl
@[simp] theorem holdCandidate_pending (c : Candidate) (s : State) : (holdCandidate c s).pending = s.pending := rfl

@[simp] theorem holdView_params (v : FrameView) (s : State) : (holdView v s).params = s.params := rfl
@[simp] theorem holdView_unitRom (v : FrameView) (s : State) : (holdView v s).unitRom = s.unitRom := rfl
@[simp] theorem holdView_descRom (v : FrameView) (s : State) : (holdView v s).descRom = s.descRom := rfl
@[simp] theorem holdView_buf (v : FrameView) (s : State) : (holdView v s).buf = s.buf := rfl
@[simp] theorem holdView_len (v : FrameView) (s : State) : (holdView v s).len = s.len := rfl
@[simp] theorem holdView_scanOrigin (v : FrameView) (s : State) : (holdView v s).scanOrigin = s.scanOrigin := rfl
@[simp] theorem holdView_cand (v : FrameView) (s : State) : (holdView v s).cand = s.cand := rfl
@[simp] theorem holdView_frm (v : FrameView) (s : State) : (holdView v s).frm = some v := rfl
@[simp] theorem holdView_crcAcc (v : FrameView) (s : State) : (holdView v s).crcAcc = s.crcAcc := rfl
@[simp] theorem holdView_crcResult (v : FrameView) (s : State) : (holdView v s).crcResult = s.crcResult := rfl
@[simp] theorem holdView_chkEmb (v : FrameView) (s : State) : (holdView v s).chkEmb = s.chkEmb := rfl
@[simp] theorem holdView_chkComp (v : FrameView) (s : State) : (holdView v s).chkComp = s.chkComp := rfl
@[simp] theorem holdView_map (v : FrameView) (s : State) : (holdView v s).map = s.map := rfl
@[simp] theorem holdView_status (v : FrameView) (s : State) : (holdView v s).status = s.status := rfl
@[simp] theorem holdView_port (v : FrameView) (s : State) : (holdView v s).port = s.port := rfl
@[simp] theorem holdView_pending (v : FrameView) (s : State) : (holdView v s).pending = s.pending := rfl

@[simp] theorem memWrite1_params (a : Nat) (v : Byte) (s : State) : (memWrite1 a v s).params = s.params := rfl
@[simp] theorem memWrite1_unitRom (a : Nat) (v : Byte) (s : State) : (memWrite1 a v s).unitRom = s.unitRom := rfl
@[simp] theorem memWrite1_descRom (a : Nat) (v : Byte) (s : State) : (memWrite1 a v s).descRom = s.descRom := rfl
@[simp] theorem memWrite1_buf (a : Nat) (v : Byte) (s : State) : (memWrite1 a v s).buf = Memory.write s.buf a v := rfl
@[simp] theorem memWrite1_len (a : Nat) (v : Byte) (s : State) : (memWrite1 a v s).len = s.len := rfl
@[simp] theorem memWrite1_scanOrigin (a : Nat) (v : Byte) (s : State) : (memWrite1 a v s).scanOrigin = s.scanOrigin := rfl
@[simp] theorem memWrite1_cand (a : Nat) (v : Byte) (s : State) : (memWrite1 a v s).cand = s.cand := rfl
@[simp] theorem memWrite1_frm (a : Nat) (v : Byte) (s : State) : (memWrite1 a v s).frm = s.frm := rfl
@[simp] theorem memWrite1_crcAcc (a : Nat) (v : Byte) (s : State) : (memWrite1 a v s).crcAcc = s.crcAcc := rfl
@[simp] theorem memWrite1_crcResult (a : Nat) (v : Byte) (s : State) : (memWrite1 a v s).crcResult = s.crcResult := rfl
@[simp] theorem memWrite1_chkEmb (a : Nat) (v : Byte) (s : State) : (memWrite1 a v s).chkEmb = s.chkEmb := rfl
@[simp] theorem memWrite1_chkComp (a : Nat) (v : Byte) (s : State) : (memWrite1 a v s).chkComp = s.chkComp := rfl
@[simp] theorem memWrite1_map (a : Nat) (v : Byte) (s : State) : (memWrite1 a v s).map = s.map := rfl
@[simp] theorem memWrite1_status (a : Nat) (v : Byte) (s : State) : (memWrite1 a v s).status = s.status := rfl
@[simp] theorem memWrite1_port (a : Nat) (v : Byte) (s : State) : (memWrite1 a v s).port = s.port := rfl
@[simp] theorem memWrite1_pending (a : Nat) (v : Byte) (s : State) : (memWrite1 a v s).pending = s.pending := rfl

@[simp] theorem recordChecksums_params (c : Candidate) (s : State) : (recordChecksums c s).params = s.params := rfl
@[simp] theorem recordChecksums_unitRom (c : Candidate) (s : State) : (recordChecksums c s).unitRom = s.unitRom := rfl
@[simp] theorem recordChecksums_descRom (c : Candidate) (s : State) : (recordChecksums c s).descRom = s.descRom := rfl
@[simp] theorem recordChecksums_buf (c : Candidate) (s : State) : (recordChecksums c s).buf = s.buf := rfl
@[simp] theorem recordChecksums_len (c : Candidate) (s : State) : (recordChecksums c s).len = s.len := rfl
@[simp] theorem recordChecksums_scanOrigin (c : Candidate) (s : State) : (recordChecksums c s).scanOrigin = s.scanOrigin := rfl
@[simp] theorem recordChecksums_cand (c : Candidate) (s : State) : (recordChecksums c s).cand = s.cand := rfl
@[simp] theorem recordChecksums_frm (c : Candidate) (s : State) : (recordChecksums c s).frm = s.frm := rfl
@[simp] theorem recordChecksums_crcAcc (c : Candidate) (s : State) : (recordChecksums c s).crcAcc = s.crcAcc := rfl
@[simp] theorem recordChecksums_crcResult (c : Candidate) (s : State) : (recordChecksums c s).crcResult = s.crcResult := rfl
@[simp] theorem recordChecksums_chkEmb (c : Candidate) (s : State) : (recordChecksums c s).chkEmb = embeddedChecksum s c := rfl
@[simp] theorem recordChecksums_chkComp (c : Candidate) (s : State) : (recordChecksums c s).chkComp = coveredChecksum s c := rfl
@[simp] theorem recordChecksums_map (c : Candidate) (s : State) : (recordChecksums c s).map = s.map := rfl
@[simp] theorem recordChecksums_status (c : Candidate) (s : State) : (recordChecksums c s).status = s.status := rfl
@[simp] theorem recordChecksums_port (c : Candidate) (s : State) : (recordChecksums c s).port = s.port := rfl
@[simp] theorem recordChecksums_pending (c : Candidate) (s : State) : (recordChecksums c s).pending = s.pending := rfl

@[simp] theorem resetBlock_params (s : State) : (resetBlock s).params = s.params := rfl
@[simp] theorem resetBlock_unitRom (s : State) : (resetBlock s).unitRom = s.unitRom := rfl
@[simp] theorem resetBlock_descRom (s : State) : (resetBlock s).descRom = s.descRom := rfl
@[simp] theorem resetBlock_buf (s : State) : (resetBlock s).buf = [] := rfl
@[simp] theorem resetBlock_len (s : State) : (resetBlock s).len = 0 := rfl
@[simp] theorem resetBlock_scanOrigin (s : State) : (resetBlock s).scanOrigin = 0 := rfl
@[simp] theorem resetBlock_cand (s : State) : (resetBlock s).cand = none := rfl
@[simp] theorem resetBlock_frm (s : State) : (resetBlock s).frm = none := rfl
@[simp] theorem resetBlock_crcAcc (s : State) : (resetBlock s).crcAcc = 0xFFFF#16 := rfl
@[simp] theorem resetBlock_crcResult (s : State) : (resetBlock s).crcResult = 0x0000#16 := rfl
@[simp] theorem resetBlock_chkEmb (s : State) : (resetBlock s).chkEmb = 0x0000#16 := rfl
@[simp] theorem resetBlock_chkComp (s : State) : (resetBlock s).chkComp = 0x0000#16 := rfl
@[simp] theorem resetBlock_map (s : State) : (resetBlock s).map = [] := rfl
@[simp] theorem resetBlock_status (s : State) : (resetBlock s).status = 0x00#8 := rfl
@[simp] theorem resetBlock_port (s : State) : (resetBlock s).port = s.port := rfl
@[simp] theorem resetBlock_pending (s : State) : (resetBlock s).pending = s.pending := rfl

/-- Finishing answers a next state in which only `status` has changed. -/
theorem finish_eq_next {c : StatusCode} {s t : State} (h : finish c s = .next t) : t = setStatus c s := by
  unfold finish at h; cases h; rfl

/-- Raising a condition answers a next state in which only `status` has changed (R160, R173). -/
theorem raise_eq_next {c : Condition} {s t : State} (h : raise c s = .next t) :
    t = setStatus (conditionCode c) s := by
  unfold raise at h; cases h; rfl

/-- A byte of the buffer depends on the buffer alone. -/
theorem bufByte_congr {s t : State} (h : t.buf = s.buf) (i : Nat) : bufByte t i = bufByte s i := by
  simp [bufByte, h]

/-- A span of the buffer depends on the bytes of that span alone. -/
theorem bufSpan_congr {s t : State} {a b : Nat} (h : ∀ i, a ≤ i → i ≤ b → bufByte t i = bufByte s i) :
    bufSpan t a b = bufSpan s a b := by
  unfold bufSpan
  refine List.map_congr_left fun i hi => h i ?_ ?_ <;> · have := List.mem_range'_1.mp hi; omega

/-- A span has one byte for every index from its first to its last. -/
@[simp] theorem bufSpan_length (s : State) (a b : Nat) : (bufSpan s a b).length = b + 1 - a := by
  simp [bufSpan]

end Sys2Proof.Machine
end

