-- ==== Sys2Proof/Laws/Exec.lean ====
section
/-! SUPPORT. Every command and every step answers a next state: the machine has no other outcome (R160). -/

namespace Sys2Proof.Machine

theorem finish_answers (c : StatusCode) (s : State) : finish c s = .next (setStatus c s) := rfl

theorem raise_answers (c : Condition) (s : State) : raise c s = .next (setStatus (conditionCode c) s) := rfl

/-- A command completes in every state (93_implementation_defined.md U9). -/
theorem exec_answers_next (i : Instr) (s : State) : ∃ t, exec i s = .next t := by
  cases i <;>
    simp only [exec, execCrcInit, execCrcUpd, execCrcFin, execBufClr, execBufPush, execFrmFind, execFrmVal, execFrmSkip,
      execDecClr, execDecPut, putEntry, finish_answers, raise_answers] <;>
    (repeat' split) <;> exact ⟨_, rfl⟩

/-- Every host action leaves the block in a next state. -/
theorem perform_answers_next (a : HostAction) (s : State) : ∃ t, perform a s = .next t := by
  cases a with
  | issue cmd =>
    simp only [perform, runCommand]
    split
    · exact exec_answers_next _ _
    · exact ⟨_, rfl⟩
  | drivePort r => exact ⟨_, rfl⟩
  | reset => exact ⟨_, rfl⟩

/-- A step is never a fault and never a refusal (R160). -/
theorem step_answers_next (s : State) : ∃ t, step s = .next t := by
  unfold step
  split
  · exact ⟨_, rfl⟩
  · exact perform_answers_next _ _

/-- Joined sequences of actions are performed one after the other (R48). -/
theorem performAll_append {xs ys : List HostAction} {s t : State} (h : performAll xs s = .next t) :
    performAll (xs ++ ys) s = performAll ys t := by
  induction xs generalizing s with
  | nil => cases h; rfl
  | cons a xs ih =>
    obtain ⟨u, hu⟩ := perform_answers_next a s
    simp only [List.cons_append, performAll, hu] at h ⊢
    exact ih h

end Sys2Proof.Machine
end

