-- ==== Sys2Proof/Laws/Search.lean ====
section
/-! SUPPORT. What the two search functions of R100 answer, once; later proofs cite these and unfold neither. -/

namespace Sys2Proof.Machine

theorem bytesAgree_iff (s : State) (pat : List Byte) (i : Nat) :
    bytesAgree s pat i = true ↔ ∀ k (h : k < pat.length), bufByte s (i + k) = pat[k] := by
  induction pat generalizing i with
  | nil => simp [bytesAgree]
  | cons b rest ih =>
    simp only [bytesAgree, Bool.and_eq_true, beq_iff_eq, ih]
    constructor
    · rintro ⟨h0, h1⟩ k hk
      cases k with
      | zero => simpa using h0
      | succ k => simpa [Nat.add_assoc, Nat.add_comm 1 k] using h1 k (by simpa using hk)
    · intro h
      refine ⟨h 0 (Nat.succ_pos _), fun k hk => ?_⟩
      rw [Nat.add_assoc, Nat.add_comm 1 k]
      exact h (k + 1) (Nat.succ_lt_succ hk)

/-- `match(pat, i)` (R100). -/
theorem matchAt_iff (s : State) (pat : List Byte) (i : Nat) : matchAt s pat i = true ↔ Matches s pat i := by
  simp [matchAt, bytesAgree_iff]

/-- `first_match(pat, from)` is an index: it is the least (R100). -/
theorem firstMatch_eq_some_iff {s : State} {pat : List Byte} (hp : pat ≠ []) {start i : Nat} :
    firstMatch s pat start = some i ↔ IsFirstMatch s pat start i := by
  have hpos : 0 < pat.length := List.length_pos_iff.mpr hp
  unfold firstMatch
  rw [List.find?_range'_eq_some]
  simp only [matchAt_iff, List.mem_range'_1, Bool.not_eq_true', ← Bool.not_eq_true]
  constructor
  · rintro ⟨hm, hi, hj⟩
    exact ⟨hi.1, hm, fun j h1 h2 => hj j h1 h2⟩
  · rintro ⟨h1, hm, hj⟩
    have := hm.1
    exact ⟨hm, ⟨h1, by omega⟩, fun j h1 h2 => hj j h1 h2⟩

/-- `first_match(pat, from)` is NONE: there is no match at or above `from` (R100). -/
theorem firstMatch_eq_none_iff {s : State} {pat : List Byte} (hp : pat ≠ []) {start : Nat} :
    firstMatch s pat start = none ↔ NoMatch s pat start := by
  have hpos : 0 < pat.length := List.length_pos_iff.mpr hp
  unfold firstMatch NoMatch
  rw [List.find?_eq_none]
  simp only [matchAt_iff, List.mem_range'_1]
  constructor
  · intro h i hi hm
    have := hm.1
    exact h i ⟨hi, by omega⟩ hm
  · exact fun h i hi => h i hi.1

/-- A match depends on the bytes it compares and on their lying below `len`. -/
theorem Matches_congr {s t : State} {pat : List Byte} {i : Nat} (hl : i + pat.length ≤ t.len)
    (hb : ∀ j, i ≤ j → j < i + pat.length → bufByte t j = bufByte s j) (h : Matches s pat i) : Matches t pat i :=
  ⟨hl, fun k hk => (hb (i + k) (by omega) (by omega)).trans (h.2 k hk)⟩

theorem startMarker_length : startMarker.length = 8 := rfl

theorem endMarker_length : endMarker.length = 5 := rfl

end Sys2Proof.Machine
end

