-- ==== Sys2Proof/Laws/Frame.lean ====
section
/-! SUPPORT. What FRM.FIND's search answers, once, and that it depends on the buffer, `len` and `scan_origin` alone. -/

namespace Sys2Proof.Machine

theorem startMarker_ne_nil : startMarker ≠ [] := by decide

theorem endMarker_ne_nil : endMarker ≠ [] := by decide

/-- The search holds a candidate exactly when the first START, the first END after it and the trailer are all in the
buffer (R103). -/
theorem locateFrame_eq_some_iff {s : State} {c : Candidate} :
    locateFrame s = some c ↔ ∃ p0 p1, IsFirstMatch s startMarker s.scanOrigin p0 ∧ IsFirstMatch s endMarker p0 p1 ∧
      p1 + 7 < s.len ∧ c = ⟨p0, p1, p1 + 7⟩ := by
  simp only [← firstMatch_eq_some_iff startMarker_ne_nil, ← firstMatch_eq_some_iff endMarker_ne_nil]
  unfold locateFrame
  cases h0 : firstMatch s startMarker s.scanOrigin with
  | none => simp
  | some p0 =>
    cases h1 : firstMatch s endMarker p0 with
    | none =>
      simp only [h1, reduceCtorEq, false_iff, Option.some.injEq]
      rintro ⟨q0, q1, rfl, h, -⟩
      rw [h1] at h; cases h
    | some p1 =>
      by_cases hl : p1 + 7 ≥ s.len
      · simp only [h1, if_pos hl, reduceCtorEq, false_iff, Option.some.injEq]
        rintro ⟨q0, q1, rfl, h, h', -⟩
        rw [h1] at h; cases h; omega
      · simp only [h1, if_neg hl, Option.some.injEq]
        constructor
        · rintro rfl; exact ⟨p0, p1, rfl, h1, by omega, rfl⟩
        · rintro ⟨q0, q1, rfl, h, h', rfl⟩
          rw [h1] at h; cases h; rfl

/-- Two states with the same buffer, `len` and `scan_origin` have the same candidate. -/
theorem locateFrame_congr {s t : State} (hb : t.buf = s.buf) (hl : t.len = s.len) (ho : t.scanOrigin = s.scanOrigin) :
    locateFrame t = locateFrame s := by
  have hm : ∀ pat i, matchAt t pat i = matchAt s pat i := fun pat i => by
    rw [Bool.eq_iff_iff, matchAt_iff, matchAt_iff]; simp [Matches, hl, bufByte, hb]
  have hf : ∀ pat i, firstMatch t pat i = firstMatch s pat i := fun pat i => by
    unfold firstMatch; rw [hl, funext (hm pat)]
  unfold locateFrame; rw [ho, hf, hl]; simp only [hf]

/-- The two-byte read is big-endian (R42). -/
theorem memRead2_toNat (s : State) (a : Nat) :
    (memRead2 s a).toNat = (bufByte s a).toNat * 256 + (bufByte s (a + 1)).toNat := joinBytes_toNat _ _

end Sys2Proof.Machine
end

