-- ==== Sys2Proof/Laws/Memory.lean ====
section
/-! SUPPORT. The laws of the frame buffer's storage: reading after a write, and that the one operation which writes
keeps the canonical form. -/

namespace Sys2Proof.Machine

theorem Memory.read_nil (a : Nat) : Memory.read [] a = Memory.unlisted := rfl

/-- The empty storage is in canonical form. -/
theorem Memory.wf_nil : Memory.wf [] := by simp [Memory.wf]

/-- The tail of a canonical storage is canonical. -/
theorem Memory.wf_tail {c : Host.Cell} {m : Memory} (h : Memory.wf (c :: m)) : Memory.wf m :=
  ⟨h.1.of_cons, fun d hd => h.2 d (List.mem_cons_of_mem _ hd)⟩

/-- An address that is not listed reads as the unlisted byte. -/
theorem Memory.read_unlisted {m : Memory} {a : Nat} (h : ∀ c ∈ m, c.1 ≠ a) : Memory.read m a = Memory.unlisted := by
  induction m with
  | nil => rfl
  | cons c m ih =>
    have hc : a ≠ c.1 := fun e => h c (by simp) e.symm
    simp only [Memory.read, if_neg hc]
    exact ih fun d hd => h d (by simp [hd])

/-- A read of another address is not changed by a write. -/
theorem Memory.read_write_other {a b : Nat} (h : b ≠ a) (m : Memory) (v : Byte) :
    Memory.read (Memory.write m a v) b = Memory.read m b := by
  induction m with
  | nil => by_cases hv : v = Memory.unlisted <;> simp [Memory.write, Memory.read, hv, h]
  | cons c m ih =>
    obtain ⟨d, x⟩ := c
    by_cases h1 : a < d
    · by_cases hv : v = Memory.unlisted <;> simp [Memory.write, Memory.read, h1, hv, h]
    · by_cases h2 : a = d
      · subst h2
        by_cases hv : v = Memory.unlisted <;> simp [Memory.write, Memory.read, hv, h]
      · simp [Memory.write, Memory.read, h1, h2, ih]

/-- A read of the written address gives the byte written. -/
theorem Memory.read_write_same {m : Memory} (hm : Memory.wf m) (a : Nat) (v : Byte) :
    Memory.read (Memory.write m a v) a = v := by
  induction m with
  | nil => by_cases hv : v = Memory.unlisted <;> simp [Memory.write, Memory.read, hv]
  | cons c m ih =>
    obtain ⟨d, x⟩ := c
    have above : ∀ e ∈ m, d < e.1 := fun e he => (List.pairwise_cons.mp hm.1).1 e he
    by_cases h1 : a < d
    · by_cases hv : v = Memory.unlisted
      · have : Memory.read ((d, x) :: m) a = Memory.unlisted := by
          refine Memory.read_unlisted fun e he => ?_
          rcases List.mem_cons.mp he with rfl | he
          · simp; omega
          · have := above e he; omega
        simpa [Memory.write, h1, hv] using this
      · simp [Memory.write, Memory.read, h1, hv]
    · by_cases h2 : a = d
      · subst h2
        by_cases hv : v = Memory.unlisted
        · have : Memory.read m a = Memory.unlisted :=
            Memory.read_unlisted fun e he => by have := above e he; omega
          simpa [Memory.write, hv] using this
        · simp [Memory.write, Memory.read, hv]
      · simpa [Memory.write, Memory.read, h1, h2] using ih (Memory.wf_tail hm)

/-- Every cell listed after a write was listed before or is the cell written. -/
theorem Memory.mem_write {m : Memory} {a : Nat} {v : Byte} {c : Host.Cell} (h : c ∈ Memory.write m a v) :
    c ∈ m ∨ (c = (a, v) ∧ v ≠ Memory.unlisted) := by
  induction m with
  | nil =>
    by_cases hv : v = Memory.unlisted
    · simp [Memory.write, hv] at h
    · right; simpa [Memory.write, hv] using h
  | cons e m ih =>
    obtain ⟨d, x⟩ := e
    by_cases h1 : a < d
    · by_cases hv : v = Memory.unlisted
      · left; simpa [Memory.write, h1, hv] using h
      · simp only [Memory.write, if_pos h1, if_neg hv] at h
        rcases List.mem_cons.mp h with rfl | h
        · exact .inr ⟨rfl, hv⟩
        · exact .inl h
    · by_cases h2 : a = d
      · by_cases hv : v = Memory.unlisted
        · simp only [Memory.write, if_neg h1, if_pos h2, if_pos hv] at h
          exact .inl (List.mem_cons_of_mem _ h)
        · simp only [Memory.write, if_neg h1, if_pos h2, if_neg hv] at h
          rcases List.mem_cons.mp h with rfl | h
          · exact .inr ⟨rfl, hv⟩
          · exact .inl (List.mem_cons_of_mem _ h)
      · simp only [Memory.write, if_neg h1, if_neg h2] at h
        rcases List.mem_cons.mp h with rfl | h
        · exact .inl (by simp)
        · rcases ih h with h | h
          · exact .inl (List.mem_cons_of_mem _ h)
          · exact .inr h

/-- A write keeps the canonical form. -/
theorem Memory.wf_write {m : Memory} (hm : Memory.wf m) (a : Nat) (v : Byte) : Memory.wf (Memory.write m a v) := by
  refine ⟨?_, fun c hc => ?_⟩
  · induction m with
    | nil => by_cases hv : v = Memory.unlisted <;> simp [Memory.write, hv]
    | cons c m ih =>
      obtain ⟨d, x⟩ := c
      have above : ∀ e ∈ m, d < e.1 := fun e he => (List.pairwise_cons.mp hm.1).1 e he
      by_cases h1 : a < d
      · by_cases hv : v = Memory.unlisted
        · simpa [Memory.write, h1, hv] using hm.1
        · simp only [Memory.write, if_pos h1, if_neg hv]
          refine List.pairwise_cons.mpr ⟨fun e he => ?_, hm.1⟩
          rcases List.mem_cons.mp he with rfl | he
          · exact h1
          · exact Nat.lt_trans h1 (above e he)
      · by_cases h2 : a = d
        · by_cases hv : v = Memory.unlisted
          · simpa [Memory.write, h1, h2, hv] using hm.1.of_cons
          · simp only [Memory.write, if_neg h1, if_pos h2, if_neg hv]
            exact List.pairwise_cons.mpr ⟨fun e he => h2 ▸ above e he, hm.1.of_cons⟩
        · simp only [Memory.write, if_neg h1, if_neg h2]
          refine List.pairwise_cons.mpr ⟨fun e he => ?_, ih (Memory.wf_tail hm)⟩
          rcases Memory.mem_write he with he | ⟨rfl, -⟩
          · exact above e he
          · show d < a; omega
  · rcases Memory.mem_write hc with h | ⟨rfl, hv⟩
    · exact hm.2 c h
    · exact hv

end Sys2Proof.Machine
end

