-- ==== Sys2Proof/Laws/PerInstr.lean ====
section
/-! SUPPORT. Per command: the fields of its word are the row of R62. -/

namespace Sys2Proof.Laws.EncodedFields

/-- The column `op` of R62. -/
def opcode : Instr → Byte
  | .crcInit => 0x10#8
  | .crcUpd _ => 0x11#8
  | .crcFin => 0x12#8
  | .bufClr => 0x20#8
  | .bufPush _ => 0x21#8
  | .frmFind => 0x30#8
  | .frmVal => 0x31#8
  | .frmSkip => 0x32#8
  | .decClr => 0x40#8
  | .decPut => 0x41#8

/-- The immediate: the data byte of format B, 0x00 in formats N and R (R61). -/
def immediate : Instr → Byte
  | .crcUpd bb => bb
  | .bufPush bb => bb
  | .crcInit | .crcFin | .bufClr | .frmFind | .frmVal | .frmSkip | .decClr | .decPut => 0x00#8

/-- The word's bits 15:8 are the opcode and its bits 7:0 the immediate. -/
def Statement (i : Instr) : Prop := opField (encode i) = opcode i ∧ immField (encode i) = immediate i

theorem fields_of_commandWord (op imm : Byte) :
    opField (commandWord op imm) = op ∧ immField (commandWord op imm) = imm :=
  ⟨opField_commandWord op imm, immField_commandWord op imm⟩

theorem crcInit : Statement .crcInit := fields_of_commandWord _ _

theorem crcUpd (bb : Byte) : Statement (.crcUpd bb) := fields_of_commandWord _ _

theorem crcFin : Statement .crcFin := fields_of_commandWord _ _

theorem bufClr : Statement .bufClr := fields_of_commandWord _ _

theorem bufPush (bb : Byte) : Statement (.bufPush bb) := fields_of_commandWord _ _

theorem frmFind : Statement .frmFind := fields_of_commandWord _ _

theorem frmVal : Statement .frmVal := fields_of_commandWord _ _

theorem frmSkip : Statement .frmSkip := fields_of_commandWord _ _

theorem decClr : Statement .decClr := fields_of_commandWord _ _

theorem decPut : Statement .decPut := fields_of_commandWord _ _

end Sys2Proof.Laws.EncodedFields
end

