-- ==== Sys2Proof/Machine/Assembly.lean ====
section
/-! DEFINITION. The assembler's text of a command (R65), and the object a host builds from a map entry for the publisher
(R149). Neither is part of a step. -/

namespace Sys2Proof.Machine

/-- The hexadecimal digits of a number in capitals, without leading zeros. -/
def hexDigits (n : Nat) : List Char := (Nat.toDigits 16 n).map Char.toUpper

/-- A byte in hexadecimal, two digits (R65, format B). -/
def hexByte (b : Byte) : List Char := hexDigits (b.toNat / 16) ++ hexDigits (b.toNat % 16)

/-- An identifier as `a.b.c...`, each element in decimal (R72). -/
def dottedId : Ident → List Char
  | [] => []
  | [b] => Nat.toDigits 10 b.toNat
  | b :: rest => Nat.toDigits 10 b.toNat ++ '.' :: dottedId rest

/-- The record of DEC.PUT in braces; `scale=` omitted means `has_scale = 0` (R65). The braces are written by their
character codes, 123 and 125. -/
def recordText (r : Record) : List Char :=
  Char.ofNat 123 :: ("id=".toList ++ dottedId r.id ++ ", value=0x".toList ++ hexDigits r.value
    ++ ", unit=".toList ++ Nat.toDigits 10 r.unit.toNat
    ++ (if r.hasScale then ", scale=0x".toList ++ hexDigits r.scale else []) ++ [Char.ofNat 125])

/-- A command as the assembler writes it: its mnemonic, then for format B the byte, then for DEC.PUT the record (R65). -/
def asmText (i : Instr) (r : Record) : List Char :=
  (mnemonic i).toList ++
    match i with
    | .crcUpd bb | .bufPush bb => " 0x".toList ++ hexByte bb
    | .decPut => ' ' :: recordText r
    | .crcInit | .crcFin | .bufClr | .frmFind | .frmVal | .frmSkip | .decClr => []

/-- What the publisher is handed for one entry (R149); `none` is null. -/
structure PublishedRecord where
  key : Ident
  dataValue : Nat
  dataUnit : Option Str
  dataType : Option Str
  deriving DecidableEq, Repr

/-- The host's pairing of the map read port's fields with the publisher's (R149, decision D24). R149 leaves `scale` and
`has_scale` at the host's disposal for `data_value`. DESIGN CHOICE (log entry 16): `data_value` is the raw `value`, and
the scale is not used. -/
def published (o : MapPort) : PublishedRecord :=
  { key := o.id, dataValue := o.value,
    dataUnit := if o.unitHit then some o.unitLabel else none,
    dataType := if o.descHit then some o.description else none }

end Sys2Proof.Machine
end

