-- ==== Sys2Proof/Tests/Slice0.lean ====
section
/-! SUPPORT. The model's own tests: the checks of WellFormed refuse an ill-formed term each, words written out from the
spec's encodings decode, one step per command on a small state with the result 95_test_vectors.md gives, and for every
statement with hypotheses a state and operands that meet them. -/

open Sys2Proof Sys2Proof.Machine Sys2Proof.Spec

namespace Sys2Proof.Tests

/- One theorem after another: elaborated side by side, the kernel's evaluations need many threads at once. -/
set_option Elab.async false

/-! ### Small states -/

/-- The buffer's storage for these bytes, index 0 first. -/
def storage (bytes : List Byte) : Memory :=
  (List.range bytes.length).foldl (fun m k => Memory.write m k (bytes.getD k 0#8)) []

/-- After reset with these bytes in the buffer. -/
def loaded (bytes : List Byte) : State := { State.reset with buf := storage bytes, len := bytes.length }

/-- `FRAME_AB` with its candidate held (V-V1's start state). -/
def heldAB : State := { loaded frameAB with cand := some ⟨0, 10, 17⟩, status := 0x01#8 }

/-- `FRAME_AB` validated (V-V1's end state). -/
def validAB : State :=
  { heldAB with frm := some ⟨0, 15, 8, 2⟩, chkEmb := 0x5BD2#16, chkComp := 0x5BD2#16, status := 0x02#8 }

/-- `FRAME_AB` with byte 17 = D3, its candidate held (V-V2's start state). -/
def badAB : State :=
  { loaded (frameAB.take 17 ++ [0xD3#8]) with cand := some ⟨0, 10, 17⟩, status := 0x01#8 }

/-- `FRAME_AB` with bit 0 of the payload byte 8 flipped (V-S4), its candidate held. -/
def flippedAB : State :=
  { loaded (frameAB.take 8 ++ [0x40#8] ++ frameAB.drop 9) with cand := some ⟨0, 10, 17⟩, status := 0x01#8 }

/-- The records RA, RB, RC of 95_test_vectors.md section 2.6. -/
def recordRA : Record := ⟨[1#8, 0#8, 16#8, 7#8, 0#8, 255#8], 0x12C, 27#8, true, 0xFF⟩

def recordRB : Record := ⟨[1#8, 0#8, 1#8, 8#8, 0#8, 255#8], 0xBC614E, 200#8, false, 0⟩

def recordRC : Record := ⟨[1#8, 0#8, 16#8, 7#8, 0#8, 255#8], 0x190, 27#8, false, 0x55⟩

/-- The decoration of RA under the test tables. -/
def entryRA : Entry :=
  { id := recordRA.id, value := 0x12C, unit := 27#8, scale := some 0xFF, unitLabel := some [0x57#8],
    description := some (Config.resetDescRom.map Prod.snd).flatten }

/-- A map of capacity 1 that holds RA, and a record on the port (V-D5, V-D6). -/
def fullMap (r : Record) : State :=
  { State.reset with params := { Config.resetParams with mapCap := 1 }, map := [entryRA], port := r }

/-- A buffer of capacity 4 that is full (V-B2). -/
def fullBuffer : State :=
  { loaded [1#8, 2#8, 3#8, 4#8] with params := { Config.resetParams with bufCap := 4 } }

/-- One thing about the next state, if there is one. -/
def after {α : Type} (r : Result) (f : State → α) : Option α :=
  match r with
  | .next t => some (f t)
  | .fault _ => none
  | .refused _ => none

/-- The command a word decodes to. -/
def decoded (w : Word) : Option Instr := decodeTableWord 16 w.toNat

/-- A fact about the next state gives the next state that has it. -/
theorem after_eq_some {α : Type} {r : Result} {f : State → α} {a : α} (h : after r f = some a) :
    ∃ t, r = .next t ∧ f t = a := by
  cases r with
  | next t => exact ⟨t, rfl, by simpa [after] using h⟩
  | fault x => cases h
  | refused x => cases h

/-! ### WellFormed: each check refuses an ill-formed term -/

theorem test_wf_accepts : Config.resetParams.wf = true ∧ UnitRom.wf Config.resetParams Config.resetUnitRom = true ∧
    DescRom.wf Config.resetParams Config.resetDescRom = true ∧ recordRA.wf Config.resetParams = true ∧
    (HostAction.drivePort recordRA).wf Config.resetParams = true := by decide

theorem test_wf_params_refuses :
    ({ Config.resetParams with bufCap := 15 }).wf = false ∧ ({ Config.resetParams with idLen := 0 }).wf = false ∧
    ({ Config.resetParams with valW := 0 }).wf = false ∧ ({ Config.resetParams with scaleW := 0 }).wf = false ∧
    ({ Config.resetParams with mapCap := 0 }).wf = false ∧ ({ Config.resetParams with labelMax := 1 }).wf = false ∧
    ({ Config.resetParams with descMax := 0 }).wf = false := by decide

theorem test_wf_unitRom_refuses :
    UnitRom.wf Config.resetParams (pinnedUnits.drop 1) = false ∧
    UnitRom.wf Config.resetParams ((27#8, []) :: pinnedUnits) = false ∧
    UnitRom.wf Config.resetParams ((1#8, List.replicate 9 0#8) :: pinnedUnits) = false := by decide

theorem test_wf_descRom_refuses :
    DescRom.wf Config.resetParams [([1#8], [])] = false ∧
    DescRom.wf Config.resetParams (Config.resetDescRom ++ Config.resetDescRom) = false ∧
    DescRom.wf Config.resetParams [(recordRB.id, List.replicate 33 0#8)] = false := by decide

theorem test_wf_record_refuses :
    ({ recordRA with id := [1#8] }).wf Config.resetParams = false ∧
    ({ recordRA with value := 2 ^ 32 }).wf Config.resetParams = false ∧
    ({ recordRA with scale := 256 }).wf Config.resetParams = false ∧
    (HostAction.drivePort { recordRA with id := [] }).wf Config.resetParams = false := by decide

/-! ### Decoding: words written out from R61, R62, R64 -/

theorem test_decode_crcInit : decoded 0b0001000000000000#16 = some .crcInit := by decide

theorem test_decode_crcUpd : decoded 0b0001000101000001#16 = some (.crcUpd 0x41#8) := by decide

theorem test_decode_crcFin : decoded 0b0001001000000000#16 = some .crcFin := by decide

theorem test_decode_bufClr : decoded 0b0010000000000000#16 = some .bufClr := by decide

theorem test_decode_bufPush : decoded 0b0010000100011011#16 = some (.bufPush 0x1B#8) := by decide

theorem test_decode_frmFind : decoded 0b0011000000000000#16 = some .frmFind := by decide

theorem test_decode_frmVal : decoded 0b0011000100000000#16 = some .frmVal := by decide

theorem test_decode_frmSkip : decoded 0b0011001000000000#16 = some .frmSkip := by decide

theorem test_decode_decClr : decoded 0b0100000000000000#16 = some .decClr := by decide

theorem test_decode_decPut : decoded 0b0100000100000000#16 = some .decPut := by decide

/-- V-E1 to V-E8: illegal words, and the ends of the data byte's range. -/
theorem test_decode_edges :
    [0x0000#16, 0xFFFF#16, 0x1001#16, 0x1300#16, 0x3001#16, 0x4101#16].map decoded = List.replicate 6 none ∧
    decoded 0x1100#16 = some (.crcUpd 0x00#8) ∧ decoded 0x11FF#16 = some (.crcUpd 0xFF#8) ∧
    decoded 0x2100#16 = some (.bufPush 0x00#8) ∧ decoded 0x21FF#16 = some (.bufPush 0xFF#8) := by decide

/-! ### One step per command -/

/-- R86's example. -/
theorem test_crcInit : after (exec .crcInit { State.reset with crcAcc := 0x1234#16 }) State.crcAcc = some 0xFFFF#16 := by
  decide

/-- V-C2c. -/
theorem test_crcUpd : after (exec (.crcUpd 0x41#8) State.reset) State.crcAcc = some 0x5C0A#16 := by decide

/-- V-C4, its last step; `crc_acc` stays. -/
theorem test_crcFin : after (exec .crcFin { State.reset with crcAcc := 0xCE10#16 })
    (fun t => (t.crcResult, t.crcAcc)) = some (0xEF31#16, 0xCE10#16) := by decide

/-- V-C1, V-C3, V-C4. -/
theorem test_checksum :
    checksum [] = 0x0000#16 ∧ checksum [0x41#8, 0x42#8] = 0xEF31#16 ∧
    checksum [0x31#8, 0x32#8, 0x33#8, 0x34#8, 0x35#8, 0x36#8, 0x37#8, 0x38#8, 0x39#8] = 0x6E90#16 := by decide +kernel

/-- V-S3: the frames whose checksums the table gives. -/
theorem test_wireFrame :
    wireFrame [0x41#8, 0x42#8] 0x00#8 = frameAB ∧
    (wireFrame [] 0x00#8).drop 14 = [0xC6#8, 0xE5#8] ∧
    (wireFrame [0x43#8, 0x44#8] 0x03#8).drop 16 = [0x62#8, 0xB3#8] ∧
    (wireFrame [0x00#8] 0xFF#8).drop 15 = [0xA9#8, 0xAD#8] := by decide +kernel

/-- V-C12. -/
theorem test_bitSerial : crcStepSerial 0xFFFF#16 0x41#8 = 0x5C0A#16 := by decide

/-- V-B6. -/
theorem test_bufClr : after (exec .bufClr validAB) (fun t => (t.len, t.cand, t.frm, t.chkEmb, bufByte t 0)) =
    some (0, none, none, 0x5BD2#16, 0x00#8) := by decide +kernel

/-- V-B1. -/
theorem test_bufPush : after (exec (.bufPush 0x1B#8) State.reset) (fun t => (bufByte t 0, t.len, t.status)) =
    some (0x1B#8, 1, 0x00#8) := by decide

/-- V-B2. -/
theorem test_bufPush_full : after (exec (.bufPush 0x05#8) fullBuffer) (fun t => (t.status, t.len, bufByte t 3)) =
    some (0xC1#8, 4, 0x04#8) := by decide

/-- V-F8: noise before the frame. -/
theorem test_frmFind : after (exec .frmFind (loaded ([0x00#8, 0xFF#8, 0x1A#8] ++ frameAB))) (fun t => (t.status, t.cand)) =
    some (0x01#8, some ⟨3, 13, 20⟩) := by decide +kernel

/-- V-F5 and V-F20: the last byte of the trailer missing. -/
theorem test_frmFind_incomplete : after (exec .frmFind (loaded (frameAB.take 17))) (fun t => (t.status, t.cand)) =
    some (0x80#8, none) := by decide +kernel

/-- V-V1. -/
theorem test_frmVal : after (exec .frmVal heldAB) (fun t => (t.status, t.chkEmb, t.chkComp, t.frm)) =
    some (0x02#8, 0x5BD2#16, 0x5BD2#16, some ⟨0, 15, 8, 2⟩) := by decide +kernel

/-- V-V2. -/
theorem test_frmVal_mismatch : after (exec .frmVal badAB) (fun t => (t.status, t.chkEmb, t.chkComp, t.frm)) =
    some (0x81#8, 0x5BD3#16, 0x5BD2#16, none) := by decide +kernel

/-- V-V7. -/
theorem test_frmSkip : after (exec .frmSkip badAB) (fun t => (t.status, t.scanOrigin, t.cand, t.len)) =
    some (0x00#8, 1, none, 18) := by decide +kernel

/-- V-V8. -/
theorem test_frmSkip_noCandidate : after (exec .frmSkip State.reset) (fun t => (t.status, t.scanOrigin)) =
    some (0xC2#8, 0) := by decide

/-- V-D7. -/
theorem test_decClr : after (exec .decClr (fullMap recordRA)) (fun t => (readReg t .mapCount, (mapReadPort t 0).mapOk)) =
    some (0, false) := by decide

/-- V-D1. -/
theorem test_decPut : after (exec .decPut { State.reset with port := recordRA }) State.map = some [entryRA] := by decide

/-- V-D5, V-D6: a new identifier in a full map is dropped; the known one is overwritten, its absent scale reading 0. -/
theorem test_decPut_full :
    after (exec .decPut (fullMap recordRB)) (fun t => (t.status, t.map)) = some (0xC3#8, [entryRA]) ∧
    after (exec .decPut (fullMap recordRC)) (fun t => (t.status, (mapReadPort t 0).value, (mapReadPort t 0).scale)) =
      some (0x00#8, 0x190, 0) := by decide

/-- V-E1: an illegal word. -/
theorem test_illegal_step : after (step (heldAB.withFetchWord 16 0x3001)) (fun t => (t.status, t.cand)) =
    some (0xC0#8, some ⟨0, 10, 17⟩) := by decide +kernel

/-- V-B7. -/
theorem test_bufReadPort : bufReadPort (loaded [0x0A#8, 0x0B#8, 0x0C#8]) 2 = ⟨0x0C#8, true⟩ ∧
    bufReadPort (loaded [0x0A#8, 0x0B#8, 0x0C#8]) 3 = ⟨0x00#8, false⟩ := by decide

/-- R65's DEC.PUT line; the braces stand by their codes. -/
theorem test_asmText :
    asmText (.bufPush 0x1B#8) recordRA = "BUF.PUSH 0x1B".toList ∧
    asmText .decPut recordRA = "DEC.PUT ".toList ++ [Char.ofNat 123] ++
      "id=1.0.16.7.0.255, value=0x12C, unit=27, scale=0xFF".toList ++ [Char.ofNat 125] := by decide +kernel

/-- P5's reading of entry 1: both nullable fields null. -/
theorem test_published : published (entryFields { entryRA with unitLabel := none, description := none }) =
    ⟨recordRA.id, 0x12C, none, none⟩ := by decide

/-! ### States that meet the invariant -/

theorem configOk_reset : State.reset.ConfigOk := ⟨by decide, by decide, by decide⟩

theorem mapOk_empty (s : State) (h : s.map = []) : s.MapOk := ⟨by simp [h], by simp [h], by simp [h]⟩

/-- The candidate of `FRAME_AB`. -/
theorem candidateOk_heldAB : heldAB.CandidateOk ⟨0, 10, 17⟩ :=
  ⟨by decide +kernel, by decide, by decide, by decide +kernel, by decide +kernel, by decide +kernel,
    fun i _ h => absurd h (Nat.not_lt_zero i), by decide +kernel⟩

theorem bufferOk_heldAB : heldAB.BufferOk := ⟨by decide +kernel, by decide +kernel, by decide +kernel, by decide +kernel⟩

/-- A state with a held candidate that meets the invariant. -/
theorem inv_heldAB : heldAB.Inv where
  config := ⟨configOk_reset.1, configOk_reset.2, configOk_reset.3⟩
  buffer := bufferOk_heldAB
  candidate := fun c h => by cases h; exact candidateOk_heldAB
  view := fun v h => by cases h
  mapOk := mapOk_empty _ rfl
  statusLegal := ⟨.candidate, rfl⟩
  host := ⟨by decide +kernel, by simp [heldAB, loaded, State.reset, State.resetWith]⟩

/-- A state with a held view that meets the invariant. -/
theorem inv_validAB : validAB.Inv where
  config := ⟨configOk_reset.1, configOk_reset.2, configOk_reset.3⟩
  buffer := ⟨bufferOk_heldAB.1, bufferOk_heldAB.2, bufferOk_heldAB.3, bufferOk_heldAB.4⟩
  candidate := fun c h => by
    cases h
    exact ⟨candidateOk_heldAB.1, candidateOk_heldAB.2, candidateOk_heldAB.3, candidateOk_heldAB.4,
      candidateOk_heldAB.5, candidateOk_heldAB.6, candidateOk_heldAB.7, candidateOk_heldAB.8⟩
  view := fun v h => by
    cases h
    exact ⟨⟨⟨0, 10, 17⟩, rfl, rfl, rfl, rfl, rfl, by decide +kernel⟩, rfl⟩
  mapOk := mapOk_empty _ rfl
  statusLegal := ⟨.valid, rfl⟩
  host := ⟨by decide +kernel, by simp [validAB, heldAB, loaded, State.reset, State.resetWith]⟩

/-- The rejected frame's state meets the invariant. -/
theorem inv_badAB : badAB.Inv where
  config := ⟨configOk_reset.1, configOk_reset.2, configOk_reset.3⟩
  buffer := ⟨by decide +kernel, by decide +kernel, by decide +kernel, by decide +kernel⟩
  candidate := fun c h => by
    cases h
    exact ⟨by decide +kernel, by decide, by decide, by decide +kernel, by decide +kernel, by decide +kernel,
      fun i _ h => absurd h (Nat.not_lt_zero i), by decide +kernel⟩
  view := fun v h => by cases h
  mapOk := mapOk_empty _ rfl
  statusLegal := ⟨.candidate, rfl⟩
  host := ⟨by decide +kernel, by simp [badAB, loaded, State.reset, State.resetWith]⟩

/-- No pattern that is not empty matches an empty buffer. -/
theorem noMatch_reset (start : Nat) : NoMatch State.reset startMarker start := fun i _ h => by
  have := h.1
  simp [State.reset, State.resetWith, startMarker] at this

/-- A search in a loaded buffer answers NONE when no index in the buffer matches. -/
theorem noMatch_of_firstMatch {s : State} {pat : List Byte} (hp : pat ≠ []) {start : Nat}
    (h : firstMatch s pat start = none) : NoMatch s pat start := (firstMatch_eq_none_iff hp).mp h

/-! ### Hypotheses that are met: one theorem per statement that has hypotheses -/

theorem witness_CommandTableDecodes :
    (0x1000#16 &&& 0xFFFF#16 = 0x1000#16) ∧ (0x1100#16 &&& 0xFF00#16 = 0x1100#16) ∧
    (0x11FF#16 &&& 0xFF00#16 = 0x1100#16) ∧ (0x1200#16 &&& 0xFFFF#16 = 0x1200#16) ∧
    (0x2000#16 &&& 0xFFFF#16 = 0x2000#16) ∧ (0x21FF#16 &&& 0xFF00#16 = 0x2100#16) ∧
    (0x3000#16 &&& 0xFFFF#16 = 0x3000#16) ∧ (0x3100#16 &&& 0xFFFF#16 = 0x3100#16) ∧
    (0x3200#16 &&& 0xFFFF#16 = 0x3200#16) ∧ (0x4000#16 &&& 0xFFFF#16 = 0x4000#16) ∧
    (0x4100#16 &&& 0xFFFF#16 = 0x4100#16) ∧
    (0x1001#16 ∉ [0x1000#16, 0x1200#16, 0x2000#16, 0x3000#16, 0x3100#16, 0x3200#16, 0x4000#16, 0x4100#16] ∧
      0x1001#16 &&& 0xFF00#16 ≠ 0x1100#16 ∧ 0x1001#16 &&& 0xFF00#16 ≠ 0x2100#16) := by decide

theorem witness_EncodeOfDecodeIsTheWord : decode 0x1141#16 = .ok (.crcUpd 0x41#8) := rfl

theorem witness_IllegalWordsWriteOnlyStatus :
    Illegal 0x0000#16 ∧ Illegal 0x1001#16 ∧ ¬ Illegal 0x11FF#16 ∧ ¬ Illegal 0x4100#16 := by
  unfold Illegal; decide

theorem witness_StepRunsTheDecodedCommand :
    (State.reset.withFetchWord 16 0x2041).pending = .issue 0x2041#16 :: [] ∧
    (State.reset.withFetchWord 16 0x1141).pending = .issue 0x1141#16 :: [] ∧
    decode 0x1141#16 = .ok (.crcUpd 0x41#8) := ⟨rfl, rfl, rfl⟩

theorem witness_IllegalCommandThenNextCommand :
    ((State.reset.withFetchWord 16 0x1000).withFetchWord 16 0x0000).pending =
      .issue 0x0000#16 :: .issue 0x1000#16 :: [] ∧ Illegal 0x0000#16 ∧ decode 0x1000#16 = .ok .crcInit :=
  ⟨rfl, by unfold Illegal; decide, rfl⟩

theorem witness_IdleStepHoldsTheState : State.reset.pending = [] := rfl

theorem witness_DrivenRecordIsTheOneDecorated :
    ({ State.reset with pending := [.drivePort recordRA, .issue 0x4100#16] } : State).pending =
      .drivePort recordRA :: .issue 0x4100#16 :: [] := rfl

theorem witness_ResetInputGivesResetState :
    ({ validAB with pending := [.reset] } : State).pending = .reset :: [] := rfl

theorem witness_CrcUpdStepsTheAccumulator : State.reset.crcAcc = 0xFFFF#16 := rfl

theorem witness_CrcFinGivesTheSwappedComplement :
    ({ State.reset with crcAcc := 0xCE10#16 } : State).crcAcc = 0xCE10#16 ∧ ∃ t, exec .crcInit heldAB = .next t :=
  ⟨rfl, exec_answers_next _ _⟩

theorem witness_BufPushAppendsOneByte :
    fullBuffer.len = fullBuffer.params.bufCap ∧ heldAB.len ≠ heldAB.params.bufCap ∧ heldAB.BufferOk ∧
    heldAB.cand = some ⟨0, 10, 17⟩ ∧ heldAB.CandidateOk ⟨0, 10, 17⟩ :=
  ⟨rfl, by decide +kernel, bufferOk_heldAB, rfl, candidateOk_heldAB⟩

theorem witness_FrmFindHoldsTheFirstCandidate :
    (IsFirstMatch heldAB startMarker heldAB.scanOrigin 0 ∧ IsFirstMatch heldAB endMarker 0 10 ∧ 10 + 7 < heldAB.len) ∧
    (∀ p0 p1, IsFirstMatch State.reset startMarker State.reset.scanOrigin p0 → IsFirstMatch State.reset endMarker p0 p1 →
      State.reset.len ≤ p1 + 7) ∧
    (∃ t, exec .frmFind heldAB = .next t) ∧ Holds heldAB frameAB ∧ heldAB.scanOrigin = 0 :=
  ⟨⟨by decide +kernel, by decide +kernel, by decide +kernel⟩, fun p0 _ h => absurd h.2.1 (noMatch_reset _ p0 h.1),
    exec_answers_next _ _, ⟨by decide +kernel, by decide +kernel⟩, rfl⟩

theorem witness_FrmValComparesTheChecksums :
    State.reset.cand = none ∧
    (heldAB.cand = some ⟨0, 10, 17⟩ ∧
      (0x5BD2#16).toNat = (bufByte heldAB 16).toNat * 256 + (bufByte heldAB 17).toNat ∧
      0x5BD2#16 = checksum (bufSpan heldAB 0 15) ∧ Holds heldAB frameAB ∧ heldAB.Inv ∧
      (∃ t, exec .frmVal heldAB = .next t) ∧ Instr.bufClr ≠ .frmVal ∧ ∃ t, exec .bufClr heldAB = .next t) ∧
    (badAB.cand = some ⟨0, 10, 17⟩ ∧
      (0x5BD3#16).toNat = (bufByte badAB 16).toNat * 256 + (bufByte badAB 17).toNat ∧
      0x5BD2#16 = checksum (bufSpan badAB 0 15) ∧ 0x5BD2#16 ≠ 0x5BD3#16) :=
  ⟨rfl, ⟨rfl, by decide +kernel, by decide +kernel, ⟨by decide +kernel, by decide +kernel⟩, inv_heldAB,
      exec_answers_next _ _, by simp, exec_answers_next _ _⟩,
    rfl, by decide +kernel, by decide +kernel, by decide⟩

theorem witness_FrmSkipResumesPastStart :
    State.reset.cand = none ∧ heldAB.cand = some ⟨0, 10, 17⟩ ∧ heldAB.Inv ∧ ∃ t, exec .frmSkip heldAB = .next t :=
  ⟨rfl, rfl, inv_heldAB, exec_answers_next _ _⟩

theorem witness_DecClrEmptiesTheMap : ∃ t, exec .decClr (fullMap recordRA) = .next t := exec_answers_next _ _

theorem witness_DecPutStoresTheDecoration :
    (∃ h : 0 < (fullMap recordRC).map.length, (fullMap recordRC).map[0].id = (fullMap recordRC).port.id) ∧
    ((∀ e ∈ (fullMap recordRB).map, e.id ≠ (fullMap recordRB).port.id) ∧
      (fullMap recordRB).map.length = (fullMap recordRB).params.mapCap) ∧
    ((∀ e ∈ State.reset.map, e.id ≠ State.reset.port.id) ∧ State.reset.map.length ≠ State.reset.params.mapCap) ∧
    (entryRA.id = recordRA.id ∧ entryRA.value = recordRA.value ∧ entryRA.unit = recordRA.unit ∧
      entryRA.scale = (if recordRA.hasScale then some recordRA.scale else none) ∧
      entryRA.unitLabel = State.reset.unitRom.lookup recordRA.unit ∧
      entryRA.description = State.reset.descRom.lookup recordRA.id) ∧
    (State.reset.map = [] ∧ State.reset.params.mapCap ≠ 0 ∧ State.reset.unitRom = pinnedUnits ∧
      State.reset.descRom = Config.resetDescRom) := by
  refine ⟨⟨by decide, by decide⟩, ⟨by decide, by decide⟩, ⟨by decide, by decide⟩, by decide, rfl, by decide, rfl, rfl⟩

theorem witness_RegistersChangeOnlyAsListed : Reg.len ∉ writtenBy .crcInit ∧ Reg.crcAcc ∉ writtenBy .bufClr := by decide

theorem witness_CommandsLeaveTheRestAlone :
    (∃ t, exec (.bufPush 0x1B#8) heldAB = .next t) ∧ (∃ t, exec .decPut heldAB = .next t) ∧
    Instr.frmVal ≠ .bufClr ∧ (∀ bb, Instr.frmVal ≠ .bufPush bb) ∧ Instr.frmVal ≠ .decClr ∧ Instr.frmVal ≠ .decPut :=
  ⟨exec_answers_next _ _, exec_answers_next _ _, by simp, by simp, by simp, by simp⟩

theorem witness_StatusIsWrittenAndNeverRead : ∀ i, decode 0x1001#16 ≠ .ok i := fun i h => by cases h

theorem witness_AddedConditionsChangeNothingElse :
    ∃ t, exec .frmVal State.reset = .next t ∧ t.status &&& 0xC0#8 = 0xC0#8 := ⟨_, rfl, by decide⟩

theorem witness_TablesNeverChange : ∃ t, step ({ validAB with pending := [.reset] } : State) = .next t :=
  step_answers_next _

theorem witness_AppendedBytesStay :
    (∃ t, step (heldAB.withFetchWord 16 0x21AA) = .next t) ∧ 17 < (heldAB.withFetchWord 16 0x21AA).len :=
  ⟨step_answers_next _, by decide +kernel⟩

theorem witness_ScanOriginMovesOnlyAsListed :
    (∃ t, exec .bufClr badAB = .next t) ∧ (∃ t, exec .frmSkip badAB = .next t) ∧ badAB.cand = some ⟨0, 10, 17⟩ ∧
    (∃ t, exec .frmSkip State.reset = .next t) ∧ State.reset.cand = none ∧
    heldAB.Inv ∧ (∃ t, step heldAB = .next t) ∧ (∀ i, decode 0x1001#16 ≠ .ok i) ∧
    (∃ t, runCommand 0x1001#16 badAB = .next t) ∧ (∃ t, perform (.drivePort recordRA) badAB = .next t) :=
  ⟨exec_answers_next _ _, exec_answers_next _ _, rfl, exec_answers_next _ _, rfl, inv_heldAB, step_answers_next _,
    fun i h => by (cases h), ⟨_, rfl⟩, ⟨_, rfl⟩⟩

theorem witness_OtherCommandsIgnoreTheCrcRegisters : isCrc .frmVal = false := rfl

theorem witness_InvariantAtReset :
    (State.resetWith Config.resetParams Config.resetUnitRom Config.resetDescRom).ConfigOk := configOk_reset

theorem witness_InvariantKeptByStep : validAB.Inv ∧ ∃ t, step validAB = .next t := ⟨inv_validAB, step_answers_next _⟩

theorem witness_RegistersFitTheirWidths : validAB.Inv ∧ validAB.params.bufCap < 2 ^ 7 := ⟨inv_validAB, by decide +kernel⟩

theorem witness_BufferReadPortOutputs : 17 < heldAB.len ∧ heldAB.len ≤ 18 := by decide +kernel

theorem witness_MapReadPortOutputs :
    (fullMap recordRA).map[0]? = some entryRA ∧ entryRA.scale = some 0xFF ∧ entryRA.unitLabel = some [0x57#8] ∧
    ({ entryRA with scale := none, unitLabel := none, description := none } : Entry).scale = none ∧
    0 < readReg (fullMap recordRA) .mapCount ∧ readReg (fullMap recordRA) .mapCount ≤ 1 :=
  ⟨rfl, rfl, rfl, rfl, by decide, by decide⟩

theorem witness_LoadedBytesReadBack :
    heldAB.BufferOk ∧ heldAB.len + (List.replicate 46 0xAA#8).length ≤ heldAB.params.bufCap :=
  ⟨bufferOk_heldAB, by decide +kernel⟩

theorem witness_StreamingCommandsComputeChecksum :
    [Instr.bufClr, .crcInit, .frmVal, .crcUpd 0x41#8, .decPut, .crcFin, .frmFind].filter isCrc =
      .crcInit :: ([0x41#8].map Instr.crcUpd ++ [.crcFin]) := by decide

theorem witness_SingleBitFlipIsRejected :
    (∃ t, exec .frmVal heldAB = .next t ∧ t.status = 0x02#8) ∧
    heldAB.cand = some ⟨0, 10, 17⟩ ∧ flippedAB.cand = some ⟨0, 10, 17⟩ ∧
    (∀ a, a ≠ 8 → bufByte flippedAB a = bufByte heldAB a) ∧
    bufByte flippedAB 8 = bufByte heldAB 8 ^^^ (1#8 <<< 0) := by
  refine ⟨after_eq_some (f := State.status) (by decide +kernel), rfl, rfl, fun a ha => ?_, by decide +kernel⟩
  have h : flippedAB.buf = Memory.write heldAB.buf 8 0x40#8 := by decide +kernel
  unfold bufByte
  rw [h]
  exact Memory.read_write_other ha _ _

theorem witness_SearchForEndMayStartPastStart :
    Matches heldAB startMarker 0 ∧ firstMatch heldAB endMarker 0 = some 10 := by decide +kernel

theorem witness_StartDoesNotOverlapItself :
    Matches heldAB startMarker 0 ∧
    Holds (loaded [0x1B#8, 0x1B#8, 0x1B#8, 0x1B#8, 0x1B#8, 0x01#8, 0x01#8, 0x01#8, 0x01#8])
      [0x1B#8, 0x1B#8, 0x1B#8, 0x1B#8, 0x1B#8, 0x01#8, 0x01#8, 0x01#8, 0x01#8] :=
  ⟨by decide +kernel, by decide +kernel, by decide +kernel⟩

theorem witness_BothResumePointsFindTheSameStart : Matches heldAB startMarker 0 := by decide +kernel

theorem witness_MissingMarkerIsIncomplete :
    NoMatch State.reset startMarker State.reset.scanOrigin ∧
    IsFirstMatch (loaded startMarker) startMarker 0 0 ∧ NoMatch (loaded startMarker) endMarker 0 :=
  ⟨noMatch_reset _, by decide +kernel, noMatch_of_firstMatch endMarker_ne_nil (by decide +kernel)⟩

theorem witness_ShortestFrameHasSixteenBytes :
    Holds (loaded (wireFrame [] 0x00#8)) (wireFrame [] 0x00#8) ∧ (loaded (frameAB.take 15)).len < 0 + 16 :=
  ⟨⟨by decide +kernel, by decide +kernel⟩, by decide +kernel⟩

theorem witness_OnlySkipMovesPastACandidate :
    (heldAB.Inv ∧ heldAB.cand = some ⟨0, 10, 17⟩ ∧ ∃ t u, exec .frmVal heldAB = .next t ∧ exec .frmFind t = .next u) ∧
    ∃ (s t u : State), s.cand = some ⟨0, 10, 17⟩ ∧ exec .frmSkip s = .next t ∧ exec .frmFind t = .next u ∧
      u.cand = some ⟨18, 28, 35⟩ := by
  refine ⟨⟨inv_heldAB, rfl, ?_⟩, ?_⟩
  · obtain ⟨t, ht⟩ := exec_answers_next .frmVal heldAB
    obtain ⟨u, hu⟩ := exec_answers_next .frmFind t
    exact ⟨t, u, ht, hu⟩
  · obtain ⟨u, hu, hc⟩ := after_eq_some (a := some ⟨18, 28, 35⟩) (f := State.cand)
      (r := exec .frmFind { loaded (frameAB ++ frameAB) with scanOrigin := 1 }) (by decide +kernel)
    exact ⟨{ loaded (frameAB ++ frameAB) with cand := some ⟨0, 10, 17⟩ }, _, u, rfl, rfl, hu, hc⟩

theorem witness_HeldViewHasTheWireFormat : validAB.Inv ∧ validAB.frm = some ⟨0, 15, 8, 2⟩ := ⟨inv_validAB, rfl⟩

theorem witness_BuiltFrameIsAccepted :
    State.reset.buf = [] ∧ State.reset.len = 0 ∧ State.reset.scanOrigin = 0 ∧
    (wireFrame [0x41#8, 0x42#8] 0x00#8).length ≤ State.reset.params.bufCap ∧ ¬ endMarker <:+: [0x41#8, 0x42#8] :=
  ⟨rfl, rfl, rfl, by decide, by decide⟩

theorem witness_AcceptedExactlyWhenWellBuilt :
    heldAB.Inv ∧ heldAB.cand = some ⟨0, 10, 17⟩ ∧ ∃ t, exec .frmVal heldAB = .next t :=
  ⟨inv_heldAB, rfl, exec_answers_next _ _⟩

theorem witness_FrameAfterARejectedOneIsAccepted :
    badAB.Inv ∧ badAB.cand = some ⟨0, 10, 17⟩ ∧ NoMatch badAB startMarker (0 + 1) ∧
    badAB.len + (wireFrame [0x43#8, 0x44#8] 0x03#8).length ≤ badAB.params.bufCap ∧
    ¬ endMarker <:+: [0x43#8, 0x44#8] :=
  ⟨inv_badAB, rfl, noMatch_of_firstMatch startMarker_ne_nil (by decide +kernel), by decide +kernel, by decide⟩

theorem witness_PinnedUnitsAreFound : UnitRom.wf State.reset.params State.reset.unitRom = true := by decide

theorem witness_DecorationHitsAndMisses :
    UnitRom.wf State.reset.params State.reset.unitRom = true ∧ State.reset.map = [] ∧ State.reset.params.mapCap ≠ 0 ∧
    recordRA.unit = 27#8 ∧ (∃ d, descLookup State.reset recordRA.id = some d) ∧
    (∀ l, (recordRB.unit, l) ∉ State.reset.unitRom) ∧ (∀ l, (recordRB.id, l) ∉ State.reset.descRom) :=
  ⟨by decide, rfl, by decide, rfl, ⟨_, rfl⟩, fun l h => by simp [State.reset, State.resetWith, Config.resetUnitRom,
    pinnedUnits, recordRB] at h, fun l h => by simp [State.reset, State.resetWith, Config.resetDescRom, recordRB] at h⟩

theorem witness_LaterRecordsOverwriteEarlierOnes :
    ([recordRA, recordRB, recordRC].map Record.id).dedup.length ≤ State.reset.params.mapCap := by decide

end Sys2Proof.Tests
end

namespace Sys2Proof.Machine

open Sys2Proof.Spec

/-! ## What a command and a host action can do

`Effect` lists the outcomes of the ten commands, guards included, and `exec_eq_next_iff` ties it to `exec`; `Acts` and
`perform_eq_next_iff` do the same for one host action. Every fact about a command below is a case split on these. -/

section Effects

variable {s t : State} {i : Instr}

/-- In state `s` the command may leave the next state: one constructor per outcome of a command's rule (R86 to R88, R101
to R103, R120, R124, R143, R144). -/
inductive Effect (s : State) : Instr → State → Prop where
  | crcInit : Effect s .crcInit (setStatus .ok { s with crcAcc := 0xFFFF#16 })
  | crcUpd (bb : Byte) : Effect s (.crcUpd bb) (setStatus .ok { s with crcAcc := crcStep s.crcAcc bb })
  | crcFin : Effect s .crcFin (setStatus .ok { s with crcResult := crcFinal s.crcAcc })
  | bufClr : Effect s .bufClr (setStatus .ok { clearCandidate s with buf := [], len := 0, scanOrigin := 0 })
  | bufPushFull (bb : Byte) (hfull : s.len = s.params.bufCap) : Effect s (.bufPush bb) (setStatus .bufOverflow s)
  | bufPush (bb : Byte) (hroom : s.len ≠ s.params.bufCap) :
      Effect s (.bufPush bb) (setStatus .ok { memWrite1 s.len bb s with len := s.len + 1 })
  | frmFindNone (hloc : locateFrame s = none) : Effect s .frmFind (setStatus .incomplete (clearCandidate s))
  | frmFind (c : Candidate) (hloc : locateFrame s = some c) :
      Effect s .frmFind (setStatus .candidate (holdCandidate c (clearCandidate s)))
  | frmValNone (hcand : s.cand = none) : Effect s .frmVal (setStatus .noCandidate s)
  | frmVal (c : Candidate) (hcand : s.cand = some c) (heq : coveredChecksum s c = embeddedChecksum s c) :
      Effect s .frmVal (setStatus .valid (holdView (viewOf c) (recordChecksums c s)))
  | frmValMismatch (c : Candidate) (hcand : s.cand = some c) (hne : coveredChecksum s c ≠ embeddedChecksum s c) :
      Effect s .frmVal (setStatus .mismatch (clearView (recordChecksums c s)))
  | frmSkipNone (hcand : s.cand = none) : Effect s .frmSkip (setStatus .noCandidate s)
  | frmSkip (c : Candidate) (hcand : s.cand = some c) :
      Effect s .frmSkip (setStatus .ok (clearCandidate { s with scanOrigin := c.candStart + 1 }))
  | decClr : Effect s .decClr (setStatus .ok { s with map := [] })
  | decPutOver (k : Nat) (hidx : mapIndex s.map s.port.id = some k) :
      Effect s .decPut (setStatus .ok { s with map := s.map.set k (decorateRecord s s.port) })
  | decPutFull (hidx : mapIndex s.map s.port.id = none) (hfull : s.map.length = s.params.mapCap) :
      Effect s .decPut (setStatus .mapFull s)
  | decPutNew (hidx : mapIndex s.map s.port.id = none) (hroom : s.map.length ≠ s.params.mapCap) :
      Effect s .decPut (setStatus .ok { s with map := s.map ++ [decorateRecord s s.port] })

/-- A listed outcome is what the command does. -/
theorem Effect.exec_eq (h : Effect s i t) : exec i s = .next t := by
  cases h with
  | crcInit | crcUpd | crcFin | bufClr | decClr => rfl
  | bufPushFull bb hfull => exact if_pos hfull
  | bufPush bb hroom => exact if_neg hroom
  | frmFindNone hloc | frmFind c hloc => simp only [exec, execFrmFind, hloc]; rfl
  | frmValNone hcand | frmSkipNone hcand | frmSkip c hcand => simp only [exec, execFrmVal, execFrmSkip, hcand]; rfl
  | frmVal c hcand heq => simp only [exec, execFrmVal, hcand, if_pos heq]; rfl
  | frmValMismatch c hcand hne => simp only [exec, execFrmVal, hcand, if_neg hne]; rfl
  | decPutOver k hidx => simp only [exec, execDecPut, putEntry, decorateRecord, samplePort, hidx]; rfl
  | decPutFull hidx hfull =>
    simp only [exec, execDecPut, putEntry, decorateRecord, samplePort, hidx, if_pos hfull]; rfl
  | decPutNew hidx hroom =>
    simp only [exec, execDecPut, putEntry, decorateRecord, samplePort, hidx, if_neg hroom]; rfl

/-- Every command completes with one of its listed outcomes. -/
theorem exists_effect (i : Instr) (s : State) : ∃ t, Effect s i t := by
  cases i with
  | crcInit => exact ⟨_, .crcInit⟩
  | crcUpd bb => exact ⟨_, .crcUpd bb⟩
  | crcFin => exact ⟨_, .crcFin⟩
  | bufClr => exact ⟨_, .bufClr⟩
  | bufPush bb =>
    by_cases h : s.len = s.params.bufCap
    · exact ⟨_, .bufPushFull bb h⟩
    · exact ⟨_, .bufPush bb h⟩
  | frmFind =>
    cases h : locateFrame s with
    | none => exact ⟨_, .frmFindNone h⟩
    | some c => exact ⟨_, .frmFind c h⟩
  | frmVal =>
    cases h : s.cand with
    | none => exact ⟨_, .frmValNone h⟩
    | some c =>
      by_cases heq : coveredChecksum s c = embeddedChecksum s c
      · exact ⟨_, .frmVal c h heq⟩
      · exact ⟨_, .frmValMismatch c h heq⟩
  | frmSkip =>
    cases h : s.cand with
    | none => exact ⟨_, .frmSkipNone h⟩
    | some c => exact ⟨_, .frmSkip c h⟩
  | decClr => exact ⟨_, .decClr⟩
  | decPut =>
    cases h : mapIndex s.map s.port.id with
    | some k => exact ⟨_, .decPutOver k h⟩
    | none =>
      by_cases hfull : s.map.length = s.params.mapCap
      · exact ⟨_, .decPutFull h hfull⟩
      · exact ⟨_, .decPutNew h hfull⟩

/-- `Effect` says what a command does, and no more. -/
theorem exec_eq_next_iff : exec i s = .next t ↔ Effect s i t := by
  refine ⟨fun h => ?_, Effect.exec_eq⟩
  obtain ⟨u, hu⟩ := exists_effect i s
  cases h.symm.trans hu.exec_eq
  exact hu

/-- A word that is no command writes ILLEGAL_CMD to `status` and nothing else (R64, R166). -/
theorem runCommand_of_illegal {w : Word} (h : ∀ i, decode w ≠ .ok i) (s : State) :
    runCommand w s = .next (setStatus .illegalCmd s) := by
  unfold runCommand
  split
  · rename_i i hi; exact absurd hi (h i)
  · rfl

/-- In state `s` the host's action may leave the next state (R6, R64, R72, R190). -/
inductive Acts (s : State) : HostAction → State → Prop where
  | command {w : Word} {i : Instr} {t : State} (hdec : decode w = .ok i) (heff : Effect s i t) : Acts s (.issue w) t
  | illegal {w : Word} (hdec : ∀ i, decode w ≠ .ok i) : Acts s (.issue w) (setStatus .illegalCmd s)
  | drivePort (r : Record) : Acts s (.drivePort r) { s with port := r }
  | reset : Acts s .reset (resetBlock s)

/-- A listed outcome is what the action does. -/
theorem Acts.perform_eq {a : HostAction} (h : Acts s a t) : perform a s = .next t := by
  cases h with
  | command hdec heff => simpa only [perform, runCommand, hdec] using heff.exec_eq
  | illegal hdec => exact runCommand_of_illegal hdec s
  | drivePort | reset => rfl

/-- Every action has one of its listed outcomes. -/
theorem exists_acts (a : HostAction) (s : State) : ∃ t, Acts s a t := by
  cases a with
  | issue w =>
    by_cases hw : ∃ i, decode w = .ok i
    · obtain ⟨i, hi⟩ := hw
      obtain ⟨t, ht⟩ := exists_effect i s
      exact ⟨t, .command hi ht⟩
    · exact ⟨_, .illegal (not_exists.mp hw)⟩
  | drivePort r => exact ⟨_, .drivePort r⟩
  | reset => exact ⟨_, .reset⟩

/-- `Acts` says what performing an action does, and no more. -/
theorem perform_eq_next_iff {a : HostAction} : perform a s = .next t ↔ Acts s a t := by
  refine ⟨fun h => ?_, Acts.perform_eq⟩
  obtain ⟨u, hu⟩ := exists_acts a s
  cases h.symm.trans hu.perform_eq
  exact hu

/-- A step is idle or performs the host's next action, taken off the host's list (R177, log entry 4). -/
theorem step_cases (h : step s = .next t) :
    (s.pending = [] ∧ t = s) ∨ ∃ a rest, s.pending = a :: rest ∧ Acts { s with pending := rest } a t := by
  unfold step at h
  split at h
  · rename_i hp; cases h; exact .inl ⟨hp, rfl⟩
  · rename_i a rest hp; exact .inr ⟨a, rest, hp, perform_eq_next_iff.mp h⟩

end Effects

/-! ## The parts of the invariant (R14)

Each part of `State.Inv` speaks of some fields only, so it carries over to any state that agrees on them. -/

section InvariantParts

variable {s t : State}

theorem State.ConfigOk.congr (h : s.ConfigOk) (hp : t.params = s.params := by rfl)
    (hu : t.unitRom = s.unitRom := by rfl) (hd : t.descRom = s.descRom := by rfl) : t.ConfigOk :=
  ⟨by rw [hp]; exact h.params, by rw [hp, hu]; exact h.unitRom, by rw [hp, hd]; exact h.descRom⟩

theorem State.BufferOk.congr (h : s.BufferOk) (hp : t.params = s.params := by rfl) (hb : t.buf = s.buf := by rfl)
    (hl : t.len = s.len := by rfl) (ho : t.scanOrigin = s.scanOrigin := by rfl) : t.BufferOk :=
  ⟨by rw [hb]; exact h.canonical, by rw [hb, hl]; exact h.belowLen, by rw [hl, hp]; exact h.lenLe,
    by rw [ho, hl]; exact h.originLe⟩

theorem State.MapOk.congr (h : s.MapOk) (hp : t.params = s.params := by rfl) (hm : t.map = s.map := by rfl) : t.MapOk :=
  ⟨by rw [hm, hp]; exact h.countLe, by rw [hm]; exact h.keysDistinct, by rw [hm, hp]; exact h.entriesFit⟩

theorem State.HostOk.congr (h : s.HostOk) (hp : t.params = s.params := by rfl) (hr : t.port = s.port := by rfl)
    (ha : t.pending = s.pending := by rfl) : t.HostOk :=
  ⟨by rw [hr, hp]; exact h.portFits, by rw [ha, hp]; exact h.actionsFit⟩

theorem bufferOk_of_empty (hb : s.buf = [] := by rfl) (hl : s.len = 0 := by rfl) (ho : s.scanOrigin = 0 := by rfl) :
    s.BufferOk :=
  ⟨hb ▸ Memory.wf_nil, by simp [hb], by simp [hl], by simp [ho]⟩

theorem mapOk_of_empty (hm : s.map = [] := by rfl) : s.MapOk := ⟨by simp [hm], by simp [hm], by simp [hm]⟩

/-- A pattern that ends at or below `len` in both states matches in both or in neither, when their bytes agree there. -/
theorem matches_iff_of_agree {pat : List Byte} {i : Nat} (hs : i + pat.length ≤ s.len) (hl : s.len ≤ t.len)
    (hb : ∀ a, a < s.len → bufByte t a = bufByte s a) : Matches t pat i ↔ Matches s pat i :=
  ⟨Matches_congr hs fun a _ h => (hb a (by omega)).symm, Matches_congr (hs.trans hl) fun a _ h => hb a (by omega)⟩

/-- A held candidate stays right when bytes are appended behind it (R40): it lies below `len`, and so does every marker
that could come before its own. -/
theorem State.CandidateOk.congr {c : Candidate} (h : s.CandidateOk c) (hl : s.len ≤ t.len := by exact Nat.le_refl _)
    (hb : ∀ a, a < s.len → bufByte t a = bufByte s a := by intro _ _; rfl)
    (ho : t.scanOrigin = s.scanOrigin := by rfl) : t.CandidateOk c := by
  have hend := h.endIs
  have hlt := h.belowLen
  have hroom := h.roomForStart
  have hstart (i : Nat) (hi : i ≤ c.candStart) : Matches t startMarker i ↔ Matches s startMarker i :=
    matches_iff_of_agree (by rw [startMarker_length]; omega) hl hb
  have hendm (i : Nat) (hi : i ≤ c.candEndm) : Matches t endMarker i ↔ Matches s endMarker i :=
    matches_iff_of_agree (by rw [endMarker_length]; omega) hl hb
  exact
    { afterOrigin := ho ▸ h.afterOrigin
      roomForStart := hroom
      endIs := hend
      belowLen := hlt.trans_le hl
      startMatches := (hstart _ le_rfl).mpr h.startMatches
      endMatches := (hendm _ le_rfl).mpr h.endMatches
      firstStart := fun i h1 h2 hm => h.firstStart i (ho ▸ h1) h2 ((hstart i h2.le).mp hm)
      firstEnd := fun i h1 h2 hm => h.firstEnd i h1 h2 ((hendm i h2.le).mp hm) }

/-- A held view depends on the bytes up to its last, on the candidate and on the recorded checksums. -/
theorem State.ViewOk.congr {v : FrameView} (h : s.ViewOk v)
    (hb : ∀ a, a ≤ v.frmLast → bufByte t a = bufByte s a := by intro _ _; rfl) (hc : t.cand = s.cand := by rfl)
    (he : t.chkEmb = s.chkEmb := by rfl) (hk : t.chkComp = s.chkComp := by rfl) : t.ViewOk v := by
  obtain ⟨⟨c, hsome, hfirst, hlast, hpl, hlen, hcomp⟩, heq⟩ := h
  refine ⟨⟨c, hc.trans hsome, hfirst, hlast, hpl, hlen, ?_⟩, by rw [he, hk, heq]⟩
  rw [hk, hcomp, bufSpan_congr fun a _ ha => hb a (hlast ▸ ha)]

/-- The last byte of a held view lies in the buffer. -/
theorem State.Inv.frmLast_lt_len {v : FrameView} (h : s.Inv) (hv : s.frm = some v) : v.frmLast < s.len := by
  obtain ⟨c, hsome, -, hlast, -⟩ := (h.view v hv).ofCandidate
  have hlt := (h.candidate c hsome).belowLen
  omega

end InvariantParts

/-! ## What FRM.FIND holds is a candidate of R14 -/

section Markers

variable {s : State}

/-- Where two matching patterns overlap, their bytes agree. -/
theorem Matches.overlap_agree {p q : List Byte} {i k : Nat} (hp : Matches s p i) (hq : Matches s q (i + k)) {j : Nat}
    (hpj : k + j < p.length) (hqj : j < q.length) : p[k + j] = q[j] := by
  rw [← hp.2 (k + j) hpj, ← hq.2 j hqj, Nat.add_assoc]

/-- END shifted by less than START's length differs from START somewhere in the overlap (R105). -/
theorem endMarker_clashes_startMarker : ∀ k < 8, ∃ j < 5, ∃ hp : k + j < startMarker.length,
    ∃ hq : j < endMarker.length, startMarker[k + j] ≠ endMarker[j] := by decide

/-- No END begins inside START (R105). -/
theorem end_past_start {p0 p1 : Nat} (h0 : Matches s startMarker p0) (h1 : Matches s endMarker p1) (hle : p0 ≤ p1) :
    p0 + 8 ≤ p1 := by
  obtain ⟨k, rfl⟩ := Nat.exists_eq_add_of_le hle
  by_contra hlt
  obtain ⟨j, -, hp, hq, hne⟩ := endMarker_clashes_startMarker k (by omega)
  exact hne (h0.overlap_agree h1 hp hq)

/-- The candidate FRM.FIND locates is one of R14. -/
theorem candidateOk_of_locateFrame {c : Candidate} (h : locateFrame s = some c) : s.CandidateOk c := by
  obtain ⟨p0, p1, ⟨hge0, hm0, hleast0⟩, ⟨hge1, hm1, hleast1⟩, hlt, rfl⟩ := locateFrame_eq_some_iff.mp h
  exact
    { afterOrigin := hge0
      roomForStart := end_past_start hm0 hm1 hge1
      endIs := rfl
      belowLen := hlt
      startMatches := hm0
      endMatches := hm1
      firstStart := hleast0
      firstEnd := hleast1 }

end Markers

/-! ## The decoration fits its entry (R20) -/

section Decoration

variable {s : State}

theorem recordWf_iff {p : Params} {r : Record} :
    r.wf p = true ↔ r.id.length = p.idLen ∧ r.value < 2 ^ p.valW ∧ r.scale < 2 ^ p.scaleW := by
  simp [Record.wf, and_assoc]

/-- A label `UNIT_ROM` answers is at most `LABEL_MAX` bytes long (R18). -/
theorem unitLookup_length_le (h : s.ConfigOk) {u : Byte} {l : Str} (hl : unitLookup s u = some l) :
    l.length ≤ s.params.labelMax := by
  have hall : ∀ kv ∈ s.unitRom, kv.2.length ≤ s.params.labelMax := by
    have hwf := h.unitRom
    simp only [UnitRom.wf, Bool.and_eq_true, List.all_eq_true, decide_eq_true_eq] at hwf
    obtain ⟨⟨-, hlabels⟩, -⟩ := hwf
    exact hlabels
  exact hall _ (lookup_mem hl)

/-- A description `DESC_ROM` answers is at most `DESC_MAX` bytes long (R19). -/
theorem descLookup_length_le (h : s.ConfigOk) {id : Ident} {d : Str} (hd : descLookup s id = some d) :
    d.length ≤ s.params.descMax := by
  have hall : ∀ kv ∈ s.descRom, kv.2.length ≤ s.params.descMax := by
    have hwf := h.descRom
    simp only [DescRom.wf, Bool.and_eq_true, List.all_eq_true, decide_eq_true_eq] at hwf
    obtain ⟨-, hentries⟩ := hwf
    exact fun kv hkv => (hentries kv hkv).2
  exact hall _ (lookup_mem hd)

/-- The decoration of a record that fits the port fits an entry (R20, R144). -/
theorem decorateRecord_wf (h : s.ConfigOk) {r : Record} (hr : r.wf s.params = true) :
    (decorateRecord s r).wf s.params := by
  obtain ⟨hid, hvalue, hscale⟩ := recordWf_iff.mp hr
  refine ⟨hid, hvalue, fun x hx => ?_, fun l hl => unitLookup_length_le h hl, fun d hd => descLookup_length_le h hd⟩
  have hx : (if r.hasScale then some r.scale else none) = some x := hx
  split at hx
  · cases hx; exact hscale
  · cases hx

/-- An entry put over the one with its identifier keeps the map right (R144). -/
theorem mapOk_set (h : s.MapOk) {e : Entry} (he : e.wf s.params) {k : Nat} (hidx : mapIndex s.map e.id = some k) :
    State.MapOk { s with map := s.map.set k e } := by
  obtain ⟨hk, hid, -⟩ := mapIndex_eq_some_iff.mp hidx
  have hkeys : (s.map.set k e).map Entry.id = s.map.map Entry.id := by
    rw [List.map_set, ← hid, ← List.getElem_map Entry.id, List.set_getElem_self]
    simpa using hk
  refine ⟨by simpa using h.countLe, hkeys ▸ h.keysDistinct, fun x hx => ?_⟩
  obtain hx | rfl := List.mem_or_eq_of_mem_set hx
  · exact h.entriesFit x hx
  · exact he

/-- An entry with a new identifier keeps a map that has room right (R144). -/
theorem mapOk_append (h : s.MapOk) {e : Entry} (he : e.wf s.params) (hidx : mapIndex s.map e.id = none)
    (hroom : s.map.length ≠ s.params.mapCap) : State.MapOk { s with map := s.map ++ [e] } := by
  have hnew := mapIndex_eq_none_iff.mp hidx
  constructor
  case countLe => simpa using Nat.lt_of_le_of_ne h.countLe hroom
  case keysDistinct => simpa [List.nodup_append, h.keysDistinct] using hnew
  case entriesFit =>
    intro x hx
    obtain hx | rfl : x ∈ s.map ∨ x = e := by simpa using hx
    · exact h.entriesFit x hx
    · exact he

end Decoration

/-! ## The invariant and the named updates

One lemma per update: the parts of the invariant that speak of the fields it writes are shown again, the others carry
over by `updateFrame` or `updateRest`. -/

section InvariantUpdates

variable {s t : State}

/-- An update of the buffer, the candidate, the view and the checksum registers. -/
theorem State.Inv.updateFrame (h : s.Inv) (hbuf : t.BufferOk) (hcand : ∀ c, t.cand = some c → t.CandidateOk c)
    (hview : ∀ v, t.frm = some v → t.ViewOk v) (hp : t.params = s.params := by rfl)
    (hu : t.unitRom = s.unitRom := by rfl) (hd : t.descRom = s.descRom := by rfl) (hm : t.map = s.map := by rfl)
    (hst : t.status = s.status := by rfl) (hr : t.port = s.port := by rfl)
    (ha : t.pending = s.pending := by rfl) : t.Inv :=
  ⟨h.config.congr hp hu hd, hbuf, hcand, hview, h.mapOk.congr hp hm, hst ▸ h.statusLegal, h.host.congr hp hr ha⟩

/-- An update of the map, `status`, the host's side, `crc_acc` and `crc_result`. -/
theorem State.Inv.updateRest (h : s.Inv) (hmap : t.MapOk) (hstatus : ∃ c, t.status = statusBits c) (hhost : t.HostOk)
    (hp : t.params = s.params := by rfl) (hu : t.unitRom = s.unitRom := by rfl)
    (hd : t.descRom = s.descRom := by rfl) (hb : t.buf = s.buf := by rfl) (hl : t.len = s.len := by rfl)
    (ho : t.scanOrigin = s.scanOrigin := by rfl) (hc : t.cand = s.cand := by rfl) (hf : t.frm = s.frm := by rfl)
    (he : t.chkEmb = s.chkEmb := by rfl) (hk : t.chkComp = s.chkComp := by rfl) : t.Inv where
  config := h.config.congr hp hu hd
  buffer := h.buffer.congr hp hb hl ho
  candidate := fun c hc' => (h.candidate c (hc.symm.trans hc')).congr hl.ge (fun a _ => bufByte_congr hb a) ho
  view := fun v hv => (h.view v (hf.symm.trans hv)).congr (fun a _ => bufByte_congr hb a) hc he hk
  mapOk := hmap
  statusLegal := hstatus
  host := hhost

theorem State.Inv.setStatus (h : s.Inv) (c : StatusCode) : (setStatus c s).Inv :=
  h.updateRest h.mapOk.congr ⟨c, rfl⟩ h.host.congr

theorem State.Inv.setCrc (h : s.Inv) (a r : Word) : State.Inv { s with crcAcc := a, crcResult := r } :=
  h.updateRest h.mapOk.congr h.statusLegal h.host.congr

theorem State.Inv.setMap (h : s.Inv) {m : List Entry} (hm : State.MapOk { s with map := m }) :
    State.Inv { s with map := m } :=
  h.updateRest hm h.statusLegal h.host.congr

/-- The host drives its port and orders its actions as the ports can carry them (R72). -/
theorem State.Inv.setHost (h : s.Inv) {r : Record} {as : List HostAction} (hr : r.wf s.params = true)
    (has : ∀ a ∈ as, a.wf s.params = true) : State.Inv { s with port := r, pending := as } :=
  h.updateRest h.mapOk.congr h.statusLegal ⟨hr, has⟩

theorem State.Inv.clearView (h : s.Inv) : (clearView s).Inv :=
  h.updateFrame h.buffer.congr (fun c hc => State.CandidateOk.congr (h.candidate c hc)) (fun _ hv => by cases hv)

/-- With no candidate held the search may start anywhere in the buffer, whatever it holds (R101, R124). -/
theorem State.Inv.setBuffer (h : s.Inv) {m : Memory} {l o : Nat}
    (hbuf : State.BufferOk { Machine.clearCandidate s with buf := m, len := l, scanOrigin := o }) :
    State.Inv { Machine.clearCandidate s with buf := m, len := l, scanOrigin := o } :=
  h.updateFrame hbuf (fun _ hc => by cases hc) (fun _ hv => by cases hv)

/-- A byte appended to a buffer that has room (R102). -/
theorem State.Inv.appendByte (h : s.Inv) (bb : Byte) (hroom : s.len ≠ s.params.bufCap) :
    State.Inv { memWrite1 s.len bb s with len := s.len + 1 } := by
  refine h.updateFrame ?buffer ?candidate ?view
  case buffer =>
    refine ⟨Memory.wf_write h.buffer.canonical s.len bb, fun c hc => ?_,
      Nat.lt_of_le_of_ne h.buffer.lenLe hroom, Nat.le_succ_of_le h.buffer.originLe⟩
    obtain hc | ⟨rfl, -⟩ := Memory.mem_write hc
    · exact Nat.lt_succ_of_lt (h.buffer.belowLen c hc)
    · exact Nat.lt_succ_self _
  case candidate =>
    exact fun c hc => State.CandidateOk.congr (h.candidate c hc) (Nat.le_succ _)
      fun a ha => Memory.read_write_other ha.ne _ _
  case view =>
    exact fun v hv => State.ViewOk.congr (h.view v hv)
      fun a ha => Memory.read_write_other (ha.trans_lt (h.frmLast_lt_len hv)).ne _ _

/-- A candidate of R14 held while no view is (R103). -/
theorem State.Inv.holdCandidate (h : s.Inv) (hfrm : s.frm = none) {c : Candidate} (hc : s.CandidateOk c) :
    (holdCandidate c s).Inv :=
  h.updateFrame h.buffer.congr (fun c' hc' => by cases hc'; exact hc.congr) (fun v hv => by cases hfrm.symm.trans hv)

/-- With no view held the recorded checksums are free. -/
theorem State.Inv.recordChecksums (h : s.Inv) (hfrm : s.frm = none) (c : Candidate) : (recordChecksums c s).Inv :=
  h.updateFrame h.buffer.congr (fun c' hc' => State.CandidateOk.congr (h.candidate c' hc'))
    (fun v hv => by cases hfrm.symm.trans hv)

theorem State.Inv.holdView (h : s.Inv) {v : FrameView} (hv : s.ViewOk v) : (holdView v s).Inv :=
  h.updateFrame h.buffer.congr (fun c hc => State.CandidateOk.congr (h.candidate c hc))
    (fun v' hv' => by cases hv'; exact hv.congr)

end InvariantUpdates

/-! ## The invariant at reset -/

section InvariantAtReset

variable {s : State}

/-- A record port whose wires are all zero fits (log entry 2). -/
theorem idlePort_wf (p : Params) : (idlePort p).wf p = true := by
  simp [recordWf_iff, idlePort]

/-- Nothing is held after reset, so only the parameters and the tables have to be right (R23). -/
theorem inv_resetWith {p : Params} {u : UnitRom} {d : DescRom} (h : (State.resetWith p u d).ConfigOk) :
    (State.resetWith p u d).Inv where
  config := h
  buffer := bufferOk_of_empty
  candidate := fun _ hc => by cases hc
  view := fun _ hv => by cases hv
  mapOk := mapOk_of_empty
  statusLegal := ⟨.ok, rfl⟩
  host := ⟨idlePort_wf p, fun _ ha => absurd ha List.not_mem_nil⟩

/-- The reset input, which leaves the host's side (R190). -/
theorem State.Inv.resetBlock (h : s.Inv) : (resetBlock s).Inv :=
  (inv_resetWith h.config.congr).setHost h.host.portFits h.host.actionsFit

end InvariantAtReset

/-! ## Every step keeps the invariant -/

section InvariantKept

variable {s t : State}

/-- A command keeps the invariant (R14). -/
theorem Effect.keeps_inv {i : Instr} (he : Effect s i t) (h : s.Inv) : t.Inv := by
  have hentry : (decorateRecord s s.port).wf s.params := decorateRecord_wf h.config h.host.portFits
  cases he with
  | crcInit | crcUpd | crcFin => exact (h.setCrc _ _).setStatus _
  | bufClr => exact (h.setBuffer bufferOk_of_empty).setStatus _
  | bufPushFull | frmValNone | frmSkipNone | decPutFull => exact h.setStatus _
  | bufPush bb hroom => exact (h.appendByte bb hroom).setStatus _
  | frmFindNone => exact State.Inv.setStatus (h.setBuffer h.buffer.congr) _
  | frmFind c hloc =>
    have hc : (clearCandidate s).CandidateOk c := (candidateOk_of_locateFrame hloc).congr
    exact ((h.setBuffer h.buffer.congr).holdCandidate rfl hc).setStatus _
  | frmVal c hcand heq =>
    have hrec : (recordChecksums c (clearView s)).Inv := h.clearView.recordChecksums rfl c
    have hview : (recordChecksums c (clearView s)).ViewOk (viewOf c) :=
      ⟨⟨c, hcand, rfl, rfl, rfl, rfl, rfl⟩, heq.symm⟩
    exact (hrec.holdView hview).setStatus _
  | frmValMismatch c => exact (h.clearView.recordChecksums rfl c).setStatus _
  | frmSkip c hcand =>
    have hc := h.candidate c hcand
    have hlt : c.candStart + 1 ≤ s.len := by
      have := hc.roomForStart; have := hc.endIs; have := hc.belowLen; omega
    exact (h.setBuffer ⟨h.buffer.canonical, h.buffer.belowLen, h.buffer.lenLe, hlt⟩).setStatus _
  | decClr => exact (h.setMap mapOk_of_empty).setStatus _
  | decPutOver k hidx => exact (h.setMap (mapOk_set h.mapOk hentry hidx)).setStatus _
  | decPutNew hidx hroom => exact (h.setMap (mapOk_append h.mapOk hentry hidx hroom)).setStatus _

/-- An action the ports can carry keeps the invariant. -/
theorem Acts.keeps_inv {a : HostAction} (ha : Acts s a t) (hwf : a.wf s.params = true) (h : s.Inv) : t.Inv := by
  cases ha with
  | command _ heff => exact heff.keeps_inv h
  | illegal => exact h.setStatus _
  | drivePort r => exact h.setHost hwf h.host.actionsFit
  | reset => exact h.resetBlock

/-- A step keeps the invariant. -/
theorem State.Inv.of_step (h : s.Inv) (hstep : step s = .next t) : t.Inv := by
  obtain ⟨-, rfl⟩ | ⟨a, rest, hpending, ha⟩ := step_cases hstep
  · exact h
  · have hfit : ∀ b ∈ a :: rest, b.wf s.params = true := hpending ▸ h.host.actionsFit
    have htaken : State.Inv { s with pending := rest } :=
      h.setHost h.host.portFits fun b hb => hfit b (List.mem_cons_of_mem a hb)
    exact ha.keeps_inv (hfit a List.mem_cons_self) htaken

end InvariantKept

/-! ## What no command and no step touches (R15, R18, R19, R22) -/

section Frames

variable {s t : State} {i : Instr}

/-- A command ends with one of its codes in `status` (R15). -/
theorem Effect.status_mem_codes (h : Effect s i t) : t.status ∈ codesWrittenBy i := by
  cases h <;> simp [codesWrittenBy, statusBits]

/-- A command that is not a CRC command leaves the two streaming registers as they were (R22). -/
theorem Effect.keeps_crc (h : Effect s i t) (hi : isCrc i = false) :
    t.crcAcc = s.crcAcc ∧ t.crcResult = s.crcResult := by
  cases h with
  | crcInit | crcUpd | crcFin => cases hi
  | _ => exact ⟨rfl, rfl⟩

/-- The guard and the outcome of a command that is not a CRC command speak of neither `status` nor the two streaming
registers (R15, R92), so the same outcome is there whatever they hold. -/
theorem Effect.ignores_status_crc (h : Effect s i t) (hi : isCrc i = false) (x : Byte) (a r : Word) :
    Effect { s with status := x, crcAcc := a, crcResult := r } i { t with crcAcc := a, crcResult := r } := by
  cases h with
  | crcInit | crcUpd | crcFin => cases hi
  | _ => constructor <;> assumption

/-- No command reads `status` (R15). -/
theorem Effect.ignores_status (h : Effect s i t) (x : Byte) : Effect { s with status := x } i t := by
  by_cases hi : isCrc i = false
  · obtain ⟨hacc, hresult⟩ := h.keeps_crc hi
    have hu : Effect { s with status := x, crcAcc := t.crcAcc, crcResult := t.crcResult } i t :=
      h.ignores_status_crc hi x _ _
    rwa [hacc, hresult] at hu
  · cases h with
    | crcInit => exact .crcInit
    | crcUpd bb => exact .crcUpd bb
    | crcFin => exact .crcFin
    | _ => exact absurd rfl hi

/-- The read-only memories and the parameters of two states are the same (R5, R18, R19). -/
def SameTables (s t : State) : Prop := t.unitRom = s.unitRom ∧ t.descRom = s.descRom ∧ t.params = s.params

theorem Effect.sameTables (h : Effect s i t) : SameTables s t := by
  cases h <;> exact ⟨rfl, rfl, rfl⟩

theorem Acts.sameTables {a : HostAction} (h : Acts s a t) : SameTables s t := by
  cases h with
  | command _ heff => exact heff.sameTables
  | illegal | drivePort | reset => exact ⟨rfl, rfl, rfl⟩

end Frames

/-! ## The registers a command writes (R14) -/

/-- A register R14 does not list for the command reads as before. -/
theorem Effect.readReg_eq {s t : State} {i : Instr} (h : Effect s i t) {r : Reg} (hr : r ∉ writtenBy i) :
    readReg t r = readReg s r := by
  cases h with
  | bufPushFull | frmValNone | frmSkipNone | decPutFull =>
    cases r with
    | status => exact absurd List.mem_cons_self hr
    | _ => rfl
  | crcInit | crcUpd =>
    cases r with
    | status | crcAcc => exact absurd (by simp [writtenBy]) hr
    | _ => rfl
  | crcFin =>
    cases r with
    | status | crcResult => exact absurd (by simp [writtenBy]) hr
    | _ => rfl
  | bufPush =>
    cases r with
    | status | len => exact absurd (by simp [writtenBy]) hr
    | _ => rfl
  | bufClr =>
    cases r with
    | crcAcc | crcResult | chkEmb | chkComp | mapCount => rfl
    | _ => exact absurd (by simp [writtenBy, candidateRegs, viewRegs]) hr
  | frmFindNone | frmFind =>
    cases r with
    | len | scanOrigin | crcAcc | crcResult | chkEmb | chkComp | mapCount => rfl
    | _ => exact absurd (by simp [writtenBy, candidateRegs, viewRegs]) hr
  | frmVal | frmValMismatch =>
    cases r with
    | len | scanOrigin | candValid | candStart | candEndm | candEnd | crcAcc | crcResult | mapCount => rfl
    | _ => exact absurd (by simp [writtenBy, viewRegs]) hr
  | frmSkip =>
    cases r with
    | len | crcAcc | crcResult | chkEmb | chkComp | mapCount => rfl
    | _ => exact absurd (by simp [writtenBy, candidateRegs, viewRegs]) hr
  | decClr | decPutOver | decPutNew =>
    cases r with
    | status | mapCount => exact absurd (by simp [writtenBy]) hr
    | _ => rfl

/-! ## The widths of the registers (R13, R14) -/

section Widths

variable {s : State}

/-- `leastWidth k` is the least width that holds `k` (R5 `IDX_W`). -/
theorem leastWidth_le_iff {k n : Nat} : leastWidth k ≤ n ↔ k < 2 ^ n := by
  unfold leastWidth
  split
  · simp [*]
  · rw [Nat.succ_le_iff, Nat.log2_lt ‹_›]

theorem lt_two_pow_leastWidth (k : Nat) : k < 2 ^ leastWidth k := leastWidth_le_iff.mp le_rfl

/-- A register of a view is bounded when every held view bounds it; not held, it reads 0 (R17). -/
theorem heldOr0_le {α : Type} {v : Option α} {f : α → Nat} {n : Nat} (h : ∀ a, v = some a → f a ≤ n) :
    heldOr0 v f ≤ n := by
  cases v with
  | none => exact Nat.zero_le n
  | some a => exact h a rfl

/-- The nine registers that hold a buffer index or a byte count (R13). -/
def indexRegs : List Reg :=
  [.len, .scanOrigin, .candStart, .candEndm, .candEnd, .frmStart, .frmLast, .plStart, .plLen]

/-- A held candidate lies in the buffer (R14). -/
theorem State.Inv.candidate_le_bufCap (h : s.Inv) {c : Candidate} (hc : s.cand = some c) :
    c.candStart + 8 ≤ c.candEndm ∧ c.candEndm ≤ c.candEnd ∧ c.candEnd ≤ s.params.bufCap := by
  have hok := h.candidate c hc
  have hlen := h.buffer.lenLe
  have hlt := hok.belowLen
  have hend := hok.endIs
  exact ⟨hok.roomForStart, by omega, by omega⟩

/-- A held view lies in the buffer (R14). -/
theorem State.Inv.view_le_bufCap (h : s.Inv) {v : FrameView} (hv : s.frm = some v) :
    v.frmStart ≤ s.params.bufCap ∧ v.frmLast ≤ s.params.bufCap ∧ v.plStart ≤ s.params.bufCap ∧
      v.plLen ≤ s.params.bufCap := by
  obtain ⟨c, hc, hfirst, hlast, hpl, hplLen, -⟩ := (h.view v hv).ofCandidate
  have hcap := h.candidate_le_bufCap hc
  omega

/-- Every index register is at most `BUF_CAP` (R13). -/
theorem State.Inv.readReg_le_bufCap (h : s.Inv) {r : Reg} (hr : r ∈ indexRegs) : readReg s r ≤ s.params.bufCap := by
  have hlen := h.buffer.lenLe
  have horigin := h.buffer.originLe.trans hlen
  cases r with
  | len => exact hlen
  | scanOrigin => exact horigin
  | candStart | candEndm | candEnd => exact heldOr0_le fun c hc => by have := h.candidate_le_bufCap hc; omega
  | frmStart | frmLast | plStart | plLen => exact heldOr0_le fun v hv => by have := h.view_le_bufCap hv; omega
  | _ => exact absurd hr (by decide)

/-- Every register fits its width (R14). -/
theorem State.Inv.readReg_lt_width (h : s.Inv) (r : Reg) : readReg s r < 2 ^ regWidth s.params r := by
  cases r with
  | status => exact s.status.isLt
  | candValid | frmValid => exact Bool.toNat_lt _
  | crcAcc => exact s.crcAcc.isLt
  | crcResult => exact s.crcResult.isLt
  | chkEmb => exact s.chkEmb.isLt
  | chkComp => exact s.chkComp.isLt
  | mapCount => exact h.mapOk.countLe.trans_lt (lt_two_pow_leastWidth _)
  | _ => exact (h.readReg_le_bufCap (by decide)).trans_lt (lt_two_pow_leastWidth _)

end Widths

/-! ## The obligations of 10_state.md -/

/-- Settles O32: each outcome a step has keeps every part of the invariant. -/
theorem invariantKeptByStep : Obligations.InvariantKeptByStep := fun _ _ h hstep => h.of_step hstep

/-- Settles O22, by the outcomes of each command. -/
theorem registersChangeOnlyAsListed : Obligations.RegistersChangeOnlyAsListed := by
  intro i s
  obtain ⟨t, ht⟩ := exists_effect i s
  exact ⟨t, ht.exec_eq, fun _ => ht.readReg_eq⟩

/-- Settles O24: every outcome writes a code of its command, and no guard speaks of `status`. -/
theorem statusIsWrittenAndNeverRead : Obligations.StatusIsWrittenAndNeverRead := by
  refine ⟨fun i s => ?command, fun w s hw => ?illegal⟩
  case command =>
    obtain ⟨t, ht⟩ := exists_effect i s
    exact ⟨t, ht.exec_eq, ht.status_mem_codes, fun x => (ht.ignores_status x).exec_eq⟩
  case illegal =>
    exact ⟨_, runCommand_of_illegal hw s, rfl, fun x => runCommand_of_illegal hw { s with status := x }⟩

/-- Settles O26: no outcome of an action, a reset among them, writes a table or a parameter. -/
theorem tablesNeverChange : Obligations.TablesNeverChange := by
  intro s t hstep
  obtain ⟨-, rfl⟩ | ⟨a, rest, -, ha⟩ := step_cases hstep
  · exact ⟨rfl, rfl, rfl⟩
  · exact ha.sameTables

/-- Settles O29: the outcomes of the seven other commands speak of neither register. -/
theorem otherCommandsIgnoreTheCrcRegisters : Obligations.OtherCommandsIgnoreTheCrcRegisters := by
  intro i s hi
  obtain ⟨t, ht⟩ := exists_effect i s
  obtain ⟨hacc, hresult⟩ := ht.keeps_crc hi
  exact ⟨t, ht.exec_eq, hacc, hresult, fun a r => (ht.ignores_status_crc hi s.status a r).exec_eq⟩

/-- Settles O33: an index register is at most `BUF_CAP`, which `IDX_W` bits hold. -/
theorem registersFitTheirWidths : Obligations.RegistersFitTheirWidths :=
  fun s h => ⟨h.readReg_lt_width, fun _ hr =>
    ⟨h.readReg_le_bufCap hr, lt_two_pow_leastWidth s.params.bufCap, fun _ => leastWidth_le_iff.mpr⟩⟩

/-- Settles O11, register by register. -/
theorem resetRegisterValues : Obligations.ResetRegisterValues := by
  refine fun p u d => ⟨fun r => ?_, fun i => if_neg (Nat.not_lt_zero i), rfl, rfl, rfl⟩
  cases r <;> rfl

/-- Settles O31: nothing is held after reset, and the choice of log entry 1 meets R5. -/
theorem invariantAtReset : Obligations.InvariantAtReset :=
  ⟨fun _ _ _ => inv_resetWith, inv_resetWith ⟨by decide, by decide, by decide⟩⟩

end Sys2Proof.Machine

namespace Sys2Proof

/-! ## A command word goes through the decoder by its two fields (R61, R62) -/

/-- A word is its two fields side by side. -/
theorem joinBytes_fields (w : Word) : joinBytes (opField w) (immField w) = w := by
  unfold joinBytes opField immField; ext i h; interval_cases i <;> simp

theorem word_eq_iff_fields {v w : Word} : v = w ↔ opField v = opField w ∧ immField v = immField w :=
  ⟨fun h => h ▸ ⟨rfl, rfl⟩, fun ⟨hop, himm⟩ => by rw [← joinBytes_fields v, hop, himm, joinBytes_fields]⟩

/-- The row test of R62 is one test of the opcode and one of the immediate. -/
theorem Row.hits_commandWord (r : Row) (op imm : Byte) : r.hits (commandWord op imm) =
    (op &&& opField r.mask == opField r.pattern && imm &&& immField r.mask == immField r.pattern) := by
  have hop : opField (commandWord op imm &&& r.mask) = op &&& opField r.mask := by
    rw [opField, BitVec.extractLsb'_and, ← opField, opField_commandWord, ← opField]
  have himm : immField (commandWord op imm &&& r.mask) = imm &&& immField r.mask := by
    rw [immField, BitVec.extractLsb'_and, ← immField, immField_commandWord, ← immField]
  rw [Bool.eq_iff_iff, Row.hits, beq_iff_eq, word_eq_iff_fields, hop, himm, Bool.and_eq_true, beq_iff_eq, beq_iff_eq]

/-- A command comes back from its word (R61, R62). In format B the opcode alone picks the row, so the immediate is the
operand, whatever byte it is. -/
theorem decode_encode (i : Instr) : decode (encode i) = .ok i := by
  cases i with
  | crcUpd bb | bufPush bb =>
    simpa [decode, encode, commandRows, Row.hits_commandWord, opField, immField] using immField_commandWord _ bb
  | _ => rfl

end Sys2Proof

namespace Sys2Proof.Machine

/-! ## What a command and a step leave of the buffer, the map and the host's side (R20, R40, R41) -/

section MemoryFrames

variable {s t : State} {i : Instr}

theorem bufByte_memWrite1_other {a b : Nat} (h : b ≠ a) (v : Byte) (s : State) :
    bufByte (memWrite1 a v s) b = bufByte s b := Memory.read_write_other h s.buf v

theorem bufByte_memWrite1_same (h : Memory.wf s.buf) (a : Nat) (v : Byte) : bufByte (memWrite1 a v s) a = v :=
  Memory.read_write_same h a v

/-- The port and the host's list are the host's: no command writes them (log entries 2 and 4). -/
theorem Effect.keeps_host (h : Effect s i t) : t.port = s.port ∧ t.pending = s.pending := by
  cases h <;> exact ⟨rfl, rfl⟩

/-- Only DEC.CLR and DEC.PUT write the map (R20, R41). -/
theorem Effect.keeps_map (h : Effect s i t) (hclr : i ≠ .decClr) (hput : i ≠ .decPut) : t.map = s.map := by
  cases h with
  | decClr => exact absurd rfl hclr
  | decPutOver | decPutFull | decPutNew => exact absurd rfl hput
  | _ => rfl

/-- Only BUF.PUSH and BUF.CLR write the buffer (R40). -/
theorem Effect.keeps_buf (h : Effect s i t) (hpush : ∀ bb, i ≠ .bufPush bb) (hclr : i ≠ .bufClr) : t.buf = s.buf := by
  cases h with
  | bufPushFull bb | bufPush bb => exact absurd rfl (hpush bb)
  | bufClr => exact absurd rfl hclr
  | _ => rfl

/-- BUF.PUSH writes at index `len` alone (R102). -/
theorem Effect.bufPush_keeps_byte {bb : Byte} (h : Effect s (.bufPush bb) t) {a : Nat} (ha : a ≠ s.len) :
    bufByte t a = bufByte s a := by
  cases h with
  | bufPushFull => rfl
  | bufPush => exact bufByte_memWrite1_other ha bb s

/-- From `s` to `t` the buffer is emptied, or it keeps every byte it holds and takes at most one more (R40). -/
def EmptiesOrAppends (s t : State) : Prop :=
  t.len = 0 ∨ (s.len ≤ t.len ∧ t.len ≤ s.len + 1 ∧ ∀ a, a < s.len → bufByte t a = bufByte s a)

theorem EmptiesOrAppends.of_same (hb : t.buf = s.buf := by rfl) (hl : t.len = s.len := by rfl) : EmptiesOrAppends s t :=
  .inr ⟨hl.ge, hl.trans_le (Nat.le_succ _), fun a _ => bufByte_congr hb a⟩

theorem Effect.emptiesOrAppends (h : Effect s i t) : EmptiesOrAppends s t := by
  cases h with
  | bufClr => exact .inl rfl
  | bufPush bb => exact .inr ⟨Nat.le_succ _, le_rfl, fun a ha => bufByte_memWrite1_other ha.ne bb s⟩
  | _ => exact .of_same

theorem Acts.emptiesOrAppends {a : HostAction} (h : Acts s a t) : EmptiesOrAppends s t := by
  cases h with
  | command _ heff => exact heff.emptiesOrAppends
  | illegal | drivePort => exact .of_same
  | reset => exact .inl rfl

end MemoryFrames

/-! ## BUF.LOAD (R65): one BUF.PUSH after another -/

section Load

variable {s t u : State}

/-- `t` is `s` with the bytes appended to its buffer: they stand in order behind the bytes held before, and neither the
search nor what it holds has moved (R40, R102). The storage is canonical (log entry 3), so that more can follow. -/
structure BytesAppended (s : State) (bytes : List Byte) (t : State) : Prop where
  params : t.params = s.params
  canonical : Memory.wf t.buf
  len : t.len = s.len + bytes.length
  kept : ∀ a, a < s.len → bufByte t a = bufByte s a
  added : ∀ k (h : k < bytes.length), bufByte t (s.len + k) = bytes[k]
  cand : t.cand = s.cand
  frm : t.frm = s.frm
  scanOrigin : t.scanOrigin = s.scanOrigin

theorem BytesAppended.nil (h : Memory.wf s.buf) : BytesAppended s [] s :=
  ⟨rfl, h, rfl, fun _ _ => rfl, fun _ hk => absurd hk (Nat.not_lt_zero _), rfl, rfl, rfl⟩

/-- What BUF.PUSH leaves of a buffer with room (R102). -/
theorem BytesAppended.single (h : Memory.wf s.buf) (bb : Byte) :
    BytesAppended s [bb] (setStatus .ok { memWrite1 s.len bb s with len := s.len + 1 }) where
  params := rfl
  canonical := Memory.wf_write h s.len bb
  len := rfl
  kept := fun _ ha => bufByte_memWrite1_other ha.ne bb s
  added := fun k hk => by
    obtain rfl : k = 0 := Nat.lt_one_iff.mp hk
    exact bufByte_memWrite1_same h s.len bb
  cand := rfl
  frm := rfl
  scanOrigin := rfl

theorem BytesAppended.append {xs ys : List Byte} (hs : BytesAppended s xs t) (ht : BytesAppended t ys u) :
    BytesAppended s (xs ++ ys) u where
  params := ht.params.trans hs.params
  canonical := ht.canonical
  len := by rw [ht.len, hs.len, List.length_append, Nat.add_assoc]
  kept := fun a ha => (ht.kept a (by rw [hs.len]; omega)).trans (hs.kept a ha)
  added := fun k hk => by
    rw [List.getElem_append]
    split
    · rename_i hlt
      exact (ht.kept _ (by rw [hs.len]; omega)).trans (hs.added k hlt)
    · rename_i hge
      have hk : k - xs.length < ys.length := by rw [List.length_append] at hk; omega
      rw [← ht.added _ hk, hs.len, Nat.add_assoc, Nat.add_sub_cancel' (Nat.not_lt.mp hge)]
  cand := ht.cand.trans hs.cand
  frm := ht.frm.trans hs.frm
  scanOrigin := ht.scanOrigin.trans hs.scanOrigin

/-- A command issued by its word has its own outcome (R60). -/
theorem Effect.perform_issueInstr {i : Instr} (h : Effect s i t) : perform (issueInstr i) s = .next t :=
  (Acts.command (decode_encode i) h).perform_eq

/-- BUF.LOAD completes and appends its bytes, when they have room. -/
theorem performAll_pseudoBufLoad {bytes : List Byte} (h : Memory.wf s.buf)
    (hroom : s.len + bytes.length ≤ s.params.bufCap) :
    ∃ t, performAll (pseudoBufLoad bytes) s = .next t ∧ BytesAppended s bytes t := by
  induction bytes generalizing s with
  | nil => exact ⟨s, rfl, .nil h⟩
  | cons b bs ih =>
    rw [List.length_cons] at hroom
    have hne : s.len ≠ s.params.bufCap := by omega
    have hpush := (Effect.bufPush b hne).perform_issueInstr
    have hfirst := BytesAppended.single h b
    obtain ⟨t, hload, hrest⟩ := ih hfirst.canonical (by rw [hfirst.len, hfirst.params, List.length_singleton]; omega)
    refine ⟨t, ?_, hfirst.append hrest⟩
    simpa only [pseudoBufLoad, List.map_cons, performAll, hpush] using hload

end Load

/-! ## The map read port (R45) -/

section MapPort

variable {s : State} {k : Nat}

theorem mapReadPort_of_some {e : Entry} (h : s.map[k]? = some e) : mapReadPort s k = entryFields e := by
  simp only [mapReadPort, h]

theorem mapReadPort_of_none (h : s.map[k]? = none) : mapReadPort s k = noEntryFields s.params := by
  simp only [mapReadPort, h]

/-- How the port shows an optional field (R20, R142): its bit, and a value that is `z` when the bit is 0. -/
theorem optionalField_reads {α : Type} (v : Option α) (z : α) :
    (∀ x, v = some x → v.isSome = true ∧ v.getD z = x) ∧ (v = none → v.isSome = false ∧ v.getD z = z) := by
  cases v <;> simp

end MapPort

/-! ## The obligations of 20_memory.md -/

/-- Settles O23, by the outcomes of each command. -/
theorem commandsLeaveTheRestAlone : Obligations.CommandsLeaveTheRestAlone := by
  intro i s t hexec
  have h : Effect s i t := exec_eq_next_iff.mp hexec
  obtain ⟨hunit, hdesc, hparams⟩ := h.sameTables
  obtain ⟨hport, hpending⟩ := h.keeps_host
  refine ⟨hparams, hunit, hdesc, hport, hpending, h.keeps_map, ?push, ?other⟩
  case push =>
    rintro bb rfl a ha
    exact h.bufPush_keeps_byte ha
  case other => exact fun hpush hclr a => bufByte_congr (h.keeps_buf hpush hclr) a

/-- Settles O27: an idle step keeps the buffer, and every action empties it or appends to it. -/
theorem appendedBytesStay : Obligations.AppendedBytesStay := by
  intro s t hstep
  obtain ⟨-, rfl⟩ | ⟨a, rest, -, ha⟩ := step_cases hstep
  · exact EmptiesOrAppends.of_same
  · exact ha.emptiesOrAppends

/-- Settles O36, by induction on the bytes: a load is its first push and the load of the rest. -/
theorem loadedBytesReadBack : Obligations.LoadedBytesReadBack := by
  intro s bytes hbuf hroom
  obtain ⟨t, hload, h⟩ := performAll_pseudoBufLoad hbuf.canonical hroom
  exact ⟨t, hload, h.len, h.kept, h.added, h.cand, h.frm, h.scanOrigin⟩

/-- Settles O34: the port's two cases are `rd_idx` below `len` and not (R44). -/
theorem bufferReadPortOutputs : Obligations.BufferReadPortOutputs :=
  fun _ _ => ⟨fun h => if_pos h, fun h => if_neg h.not_gt⟩

/-- Settles O35: an index holds an entry exactly when it is below `map_count`, the map's length (R45). -/
theorem mapReadPortOutputs : Obligations.MapReadPortOutputs := by
  refine fun s k => ⟨fun e he => ?entry, fun hlt => ⟨_, List.getElem?_eq_getElem hlt⟩, fun hge => ?noEntry⟩
  case entry =>
    obtain ⟨hscale, hnoScale⟩ := optionalField_reads e.scale 0
    obtain ⟨hlabel, hnoLabel⟩ := optionalField_reads e.unitLabel []
    obtain ⟨hdesc, hnoDesc⟩ := optionalField_reads e.description []
    exact ⟨entryFields e, mapReadPort_of_some he, rfl, rfl, rfl, rfl, hscale, hnoScale, hlabel, hnoLabel, hdesc, hnoDesc⟩
  case noEntry =>
    have hnone : s.map[k]? = none := List.getElem?_eq_none hge
    exact ⟨noEntryFields s.params, mapReadPort_of_none hnone, rfl, rfl, rfl, rfl, rfl, rfl, rfl, rfl, rfl, rfl⟩

end Sys2Proof.Machine

namespace Sys2Proof

open Sys2Proof.Spec

/-! ## The command table (R62) and the encoder say the same -/

section Rows

variable {r : Row} {w : Word} {i : Instr}

/-- A row of formats N and R has a mask of the whole word (R61, R62). -/
theorem Row.hits_iff_of_fullMask (hmask : r.mask = 0xFFFF#16) : r.hits w = true ↔ w = r.pattern := by
  have hall : w &&& 0xFFFF#16 = w := BitVec.and_allOnes
  rw [Row.hits, hmask, hall, beq_iff_eq]

/-- The opcode mask of format B keeps the opcode and clears the immediate (R61, R62). -/
theorem commandWord_and_opMask (op imm : Byte) : commandWord op imm &&& 0xFF00#16 = commandWord op 0x00#8 := by
  have hop : op &&& opField 0xFF00#16 = op := BitVec.and_allOnes
  have himm : imm &&& immField 0xFF00#16 = 0x00#8 := BitVec.and_zero
  have hhits := Row.hits_commandWord ⟨"", commandWord op 0x00#8, 0xFF00#16, .crcUpd⟩ op imm
  simpa [Row.hits, hop, himm, opField_commandWord, immField_commandWord] using hhits

/-- A row of format B has a mask of the opcode alone, so the immediate is free (R61, R62). -/
theorem Row.hits_iff_of_opMask (hmask : r.mask = 0xFF00#16) (himm : immField r.pattern = 0x00#8) :
    r.hits w = true ↔ w = commandWord (opField r.pattern) (immField w) := by
  have hand := commandWord_and_opMask (opField w) (immField w)
  rw [commandWord, joinBytes_fields] at hand
  rw [Row.hits, hmask, hand, beq_iff_eq, word_eq_iff_fields, word_eq_iff_fields (v := w)]
  simp [opField_commandWord, immField_commandWord, himm]

/-- A word meets a row exactly when it is the encoding of the row's command with the low byte as operand. -/
theorem Row.hits_iff_eq_encode (hr : r ∈ commandRows) : r.hits w = true ↔ w = encode (r.build (immField w)) := by
  simp only [commandRows, List.mem_cons, List.not_mem_nil, or_false] at hr
  obtain rfl | rfl | rfl | rfl | rfl | rfl | rfl | rfl | rfl | rfl := hr
  · exact Row.hits_iff_of_fullMask rfl
  · exact Row.hits_iff_of_opMask rfl rfl
  · exact Row.hits_iff_of_fullMask rfl
  · exact Row.hits_iff_of_fullMask rfl
  · exact Row.hits_iff_of_opMask rfl rfl
  all_goals exact Row.hits_iff_of_fullMask rfl

/-- A word that decodes meets the row of its command. -/
theorem exists_row_of_decode (h : decode w = .ok i) :
    ∃ r ∈ commandRows, r.hits w = true ∧ i = r.build (immField w) := by
  unfold decode at h
  split at h
  · rename_i r hfind
    cases h
    exact ⟨r, List.mem_of_find?_eq_some hfind, List.find?_some (p := (Row.hits · w)) hfind, rfl⟩
  · split at h <;> cases h

/-- The decoder answers a command on the command's own word and on no other. -/
theorem decode_eq_ok_iff : decode w = .ok i ↔ encode i = w := by
  refine ⟨fun h => ?_, fun h => h ▸ decode_encode i⟩
  obtain ⟨r, hr, hhits, rfl⟩ := exists_row_of_decode h
  exact ((Row.hits_iff_eq_encode hr).mp hhits).symm

theorem decode_eq_error_iff : (∃ e, decode w = .error e) ↔ ∀ i, encode i ≠ w := by
  simp only [ne_eq, ← decode_eq_ok_iff]
  cases decode w <;> simp

/-- A word that meets a row decodes to the row's command, its low byte as operand (R62). -/
theorem decode_of_row (k : Nat) (hk : k < commandRows.length := by decide)
    (h : w &&& commandRows[k].mask = commandRows[k].pattern) : decode w = .ok (commandRows[k].build (immField w)) :=
  decode_eq_ok_iff.mpr ((Row.hits_iff_eq_encode (List.getElem_mem hk)).mp (beq_iff_eq.mpr h)).symm

theorem encode_injective : Function.Injective encode := fun i _ h =>
  Except.ok.inj ((decode_encode i).symm.trans (decode_eq_ok_iff.mpr h.symm))

end Rows

/-! ## The illegal words (R64) -/

section IllegalWords

variable {w : Word}

/-- A word is given by R61's two fields as numbers. -/
theorem eq_commandWord_iff {op imm : Byte} : w = commandWord op imm ↔ opOf w = op.toNat ∧ immOf w = imm.toNat := by
  have himm := imm.isLt
  rw [← BitVec.toNat_inj, commandWord, joinBytes_toNat, opOf, immOf]
  omega

theorem toNat_immField (w : Word) : (immField w).toNat = immOf w := BitVec.extractLsb'_toNat 0 8 w

theorem decode_eq_error_iff_forall_row :
    (∃ e, decode w = .error e) ↔ ∀ r ∈ commandRows, w ≠ encode (r.build (immField w)) := by
  refine decode_eq_error_iff.trans ⟨fun h r _ hw => h _ hw.symm, fun h i hi => ?_⟩
  obtain ⟨r, hr, hhits, -⟩ := exists_row_of_decode (decode_eq_ok_iff.mpr hi)
  exact h r hr ((Row.hits_iff_eq_encode hr).mp hhits)

/-- The words that are no row's encoding are those R64 calls illegal: row by row, as numbers. -/
theorem decode_eq_error_iff_illegal : (∃ e, decode w = .error e) ↔ Illegal w := by
  rw [decode_eq_error_iff_forall_row, Illegal]
  simp only [commandRows, List.forall_mem_cons, encode, ne_eq, eq_commandWord_iff, toNat_immField, BitVec.reduceToNat]
  by_cases himm : immOf w = 0
  · simp [himm]
  · simp only [himm, and_false, and_true, true_and, or_false, not_false_eq_true, List.mem_cons, List.not_mem_nil,
      false_implies, implies_true]
    omega

theorem not_illegal_iff_exists_encode_eq : ¬ Illegal w ↔ ∃ i, encode i = w := by
  rw [← decode_eq_error_iff_illegal, decode_eq_error_iff]
  simp

/-- Every value of a data byte. -/
def allBytes : List Byte := (List.finRange 256).map BitVec.ofFin

theorem mem_allBytes (bb : Byte) : bb ∈ allBytes := List.mem_map.mpr ⟨bb.toFin, List.mem_finRange _, rfl⟩

theorem nodup_allBytes : allBytes.Nodup := (List.nodup_finRange 256).map fun _ _ h => congrArg BitVec.toFin h

theorem length_allBytes : allBytes.length = 256 := by simp [allBytes]

/-- The eight commands of formats N and R (R61). -/
def plainCommands : List Instr := [.crcInit, .crcFin, .bufClr, .frmFind, .frmVal, .frmSkip, .decClr, .decPut]

/-- Every command, format B with every data byte. -/
def allCommands : List Instr := plainCommands ++ (allBytes.map .crcUpd ++ allBytes.map .bufPush)

theorem mem_allCommands (i : Instr) : i ∈ allCommands := by
  cases i <;> simp [allCommands, plainCommands, mem_allBytes]

theorem nodup_allCommands : allCommands.Nodup := by
  have hupd := nodup_allBytes.map (f := Instr.crcUpd) fun _ _ => Instr.crcUpd.inj
  have hpush := nodup_allBytes.map (f := Instr.bufPush) fun _ _ => Instr.bufPush.inj
  simp [allCommands, plainCommands, List.nodup_append, hupd, hpush]

theorem length_allCommands : allCommands.length = 520 := by simp [allCommands, plainCommands, length_allBytes]

/-- The legal words: the encodings of all commands. -/
def legalWords : List Word := allCommands.map encode

theorem mem_legalWords_iff : w ∈ legalWords ↔ ¬ Illegal w := by
  simp [legalWords, mem_allCommands, not_illegal_iff_exists_encode_eq]

theorem nodup_legalWords : legalWords.Nodup := nodup_allCommands.map encode_injective

theorem length_legalWords : legalWords.length = 520 := by rw [legalWords, List.length_map, length_allCommands]

/-- The illegal words: all others. -/
def illegalWords : Finset Word := legalWords.toFinsetᶜ

theorem mem_illegalWords_iff : w ∈ illegalWords ↔ Illegal w := by
  simp [illegalWords, mem_legalWords_iff]

theorem card_illegalWords : illegalWords.card = 65016 := by
  rw [illegalWords, Finset.card_compl, List.toFinset_card_of_nodup nodup_legalWords, length_legalWords,
    ← FinEnum.card_eq_fintypeCard, FinEnum.card_bitVec]; rfl

end IllegalWords

end Sys2Proof

namespace Sys2Proof.Machine

open Sys2Proof.Spec

/-! ## A step performs the host's next action (R60, log entry 4) -/

section Steps

variable {s : State} {w : Word}

theorem step_of_pending {a : HostAction} {rest : List HostAction} (h : s.pending = a :: rest) :
    step s = perform a { s with pending := rest } := by
  simp only [step, h]

theorem runCommand_of_decode {i : Instr} (h : decode w = .ok i) (s : State) : runCommand w s = exec i s := by
  simp only [runCommand, h]

/-- A word R64 calls illegal raises IllegalCommand (R64, R166). -/
theorem runCommand_of_illegalWord (h : Illegal w) (s : State) :
    runCommand w s = .next (setStatus .illegalCmd s) := by
  obtain ⟨e, he⟩ := decode_eq_error_iff_illegal.mpr h
  exact runCommand_of_illegal (fun i hi => by cases he.symm.trans hi) s

end Steps

/-! ## A run of buffer bytes -/

section ByteRuns

variable {s : State}

/-- `n` bytes of the buffer from index `a` on: `bufSpan` and the payload of the view, by their length. -/
def byteRun (s : State) (a n : Nat) : List Byte := (List.range' a n).map (bufByte s)

theorem bufSpan_eq_byteRun (s : State) (a b : Nat) : bufSpan s a b = byteRun s a (b + 1 - a) := rfl

theorem byteRun_add (s : State) (a m n : Nat) : byteRun s a (m + n) = byteRun s a m ++ byteRun s (a + m) n := by
  rw [byteRun, ← List.range'_append_1, List.map_append]; rfl

theorem byteRun_one (s : State) (a : Nat) : byteRun s a 1 = [bufByte s a] := rfl

theorem byteRun_two (s : State) (a : Nat) : byteRun s a 2 = [bufByte s a, bufByte s (a + 1)] := rfl

/-- Where a pattern matches, the buffer holds its bytes (R100). -/
theorem Matches.byteRun_eq {pat : List Byte} {i : Nat} (h : Matches s pat i) : byteRun s i pat.length = pat :=
  List.ext_getElem (by simp [byteRun]) fun k hk hk' => by simpa [byteRun] using h.2 k hk'

end ByteRuns

/-! ## The wire format (R70) in the buffer -/

section Wire

variable {s t : State} {c : Candidate}

@[simp] theorem checksumBytes_length (v : Word) : (checksumBytes v).length = 2 := rfl

theorem checksumBytes_joinBytes (hi lo : Byte) : checksumBytes (joinBytes hi lo) = [hi, lo] := by
  rw [checksumBytes, joinBytes_high, joinBytes_low]

theorem checksumBytes_injective : Function.Injective checksumBytes := fun v w h => by
  rw [word_eq_iff_fields]
  simpa [checksumBytes, opField, immField] using h

/-- A candidate's covered span is START, the bytes between the markers, END and the byte after it (R70). -/
theorem State.CandidateOk.coveredSpan_eq (h : s.CandidateOk c) : bufSpan s c.candStart (c.candEnd - 2) =
    coveredSpan (byteRun s (c.candStart + 8) (c.candEndm - c.candStart - 8)) (bufByte s (c.candEnd - 2)) := by
  have hend := h.endIs
  obtain ⟨n, hn⟩ := Nat.exists_eq_add_of_le h.roomForStart
  have hstart : byteRun s c.candStart 8 = startMarker := h.startMatches.byteRun_eq
  have hendm : byteRun s (c.candStart + (8 + n)) 5 = endMarker := by
    rw [← Nat.add_assoc, ← hn]; exact h.endMatches.byteRun_eq
  have hlen : c.candEnd - 2 + 1 - c.candStart = 8 + n + 5 + 1 := by omega
  have hpl : c.candEndm - c.candStart - 8 = n := by omega
  have hfill : c.candStart + (8 + n + 5) = c.candEnd - 2 := by omega
  rw [bufSpan_eq_byteRun, hlen, hpl, byteRun_add, byteRun_add, byteRun_add, hstart, hendm, hfill, byteRun_one,
    coveredSpan]

/-- A candidate's bytes are its covered span and its embedded checksum, high byte first (R42, R70). -/
theorem State.CandidateOk.bufSpan_eq (h : s.CandidateOk c) : bufSpan s c.candStart c.candEnd =
    bufSpan s c.candStart (c.candEnd - 2) ++ checksumBytes (embeddedChecksum s c) := by
  have hend := h.endIs
  have hroom := h.roomForStart
  have hlen : c.candEnd + 1 - c.candStart = (c.candEnd - 2 + 1 - c.candStart) + 2 := by omega
  have hemb : c.candStart + (c.candEnd - 2 + 1 - c.candStart) = c.candEnd - 1 := by omega
  rw [bufSpan_eq_byteRun, hlen, byteRun_add, hemb, byteRun_two, bufSpan_eq_byteRun, embeddedChecksum, memRead2,
    checksumBytes_joinBytes]

/-- The two checksums FRM.VAL compares are equal exactly when the candidate is a frame as a sender builds it. -/
theorem State.CandidateOk.checksums_eq_iff (h : s.CandidateOk c) : coveredChecksum s c = embeddedChecksum s c ↔
    ∃ payload fill, bufSpan s c.candStart c.candEnd = wireFrame payload fill := by
  rw [h.bufSpan_eq, coveredChecksum]
  refine ⟨fun heq => ?_, fun ⟨payload, fill, hframe⟩ => ?_⟩
  · exact ⟨_, _, by rw [← heq, h.coveredSpan_eq, wireFrame]⟩
  · rw [wireFrame] at hframe
    obtain ⟨hspan, hsum⟩ := List.append_inj' hframe (by rw [checksumBytes_length, checksumBytes_length])
    rw [hspan, checksumBytes_injective hsum]

/-- FRM.VAL answers VALID exactly when the two checksums are equal (R120). -/
theorem Effect.frmVal_status_iff (h : Effect s .frmVal t) (hcand : s.cand = some c) :
    t.status = 0x02#8 ↔ coveredChecksum s c = embeddedChecksum s c := by
  cases h with
  | frmValNone hnone => cases hnone.symm.trans hcand
  | frmVal d hd heq =>
    cases hd.symm.trans hcand
    exact iff_of_true rfl heq
  | frmValMismatch d hd hne =>
    cases hd.symm.trans hcand
    exact iff_of_false (show statusBits .mismatch ≠ statusBits .valid by decide) hne

end Wire

/-! ## The obligations of 30_encoding.md -/

/-- Settles O2: the opcode picks the command's row of R62, and in format B the immediate comes back as the operand. -/
theorem decodeOfEncodeIsTheCommand : Obligations.DecodeOfEncodeIsTheCommand := decode_encode

/-- Settles O1, row by row; a word that decodes is its command's encoding and so meets a row, hence one that meets none
is an error. -/
theorem commandTableDecodes : Obligations.CommandTableDecodes := by
  refine fun w => ⟨decode_of_row 0, decode_of_row 1, decode_of_row 2, decode_of_row 3, decode_of_row 4,
    decode_of_row 5, decode_of_row 6, decode_of_row 7, decode_of_row 8, decode_of_row 9, fun hfull hupd hpush => ?_⟩
  refine decode_eq_error_iff.mpr fun i hi => ?_
  subst hi
  cases i with
  | crcUpd bb => exact hupd (commandWord_and_opMask 0x11#8 bb)
  | bufPush bb => exact hpush (commandWord_and_opMask 0x21#8 bb)
  | _ => exact hfull (by decide)

/-- Settles O3: a row is met by the encodings of its own command only. -/
theorem encodeOfDecodeIsTheWord : Obligations.EncodeOfDecodeIsTheWord := fun _ _ => decode_eq_ok_iff.mp

/-- Settles O5: the legal words are the encodings of the 8 + 2 * 256 commands, the illegal ones all others. -/
theorem illegalWordsWriteOnlyStatus : Obligations.IllegalWordsWriteOnlyStatus := by
  refine ⟨fun w => decode_eq_error_iff_illegal, ?legal, ?illegal, fun w s h => runCommand_of_illegalWord h s⟩
  case legal => exact ⟨legalWords, nodup_legalWords, length_legalWords, fun w => mem_legalWords_iff⟩
  case illegal =>
    exact ⟨illegalWords.toList, illegalWords.nodup_toList, illegalWords.length_toList.trans card_illegalWords,
      fun w => Finset.mem_toList.trans mem_illegalWords_iff⟩

/-- Settles O47: a held view is the covered span of the held candidate. -/
theorem heldViewHasTheWireFormat : Obligations.HeldViewHasTheWireFormat := by
  intro s hinv v hv
  obtain ⟨c, hcand, hfirst, hlast, hstart, hlen, hcomp⟩ := (hinv.view v hv).ofCandidate
  have hspan := (hinv.candidate c hcand).coveredSpan_eq
  refine ⟨byteRun s v.plStart v.plLen, bufByte s v.frmLast, ?payload, ?view, rfl, ?checksum⟩
  case payload => rw [payloadBytes, hv]; rfl
  case view => rw [viewBytes, hv, Option.map_some, hfirst, hlast, hstart, hlen, hspan]
  case checksum => rw [hcomp, hspan, hlast, hstart, hlen]

/-- Settles O49: FRM.VAL accepts when its two checksums agree, which is when the last two bytes are the checksum of the
covered span. -/
theorem acceptedExactlyWhenWellBuilt : Obligations.AcceptedExactlyWhenWellBuilt :=
  fun _ _ c hinv hcand hexec =>
    ((exec_eq_next_iff.mp hexec).frmVal_status_iff hcand).trans (hinv.candidate c hcand).checksums_eq_iff

/-- Settles O4: five of the words are the encodings of the commands they stand for, and two meet no row. -/
theorem sampleWordsDecode : Obligations.SampleWordsDecode :=
  ⟨decode_encode .crcInit, decode_encode (.crcUpd 0x41#8), decode_encode (.bufPush 0x1B#8), decode_encode .frmVal,
    decode_encode .decPut, rfl, rfl⟩

/-- Settles O6: a step performs the next action, and issuing a word runs what it decodes to. -/
theorem stepRunsTheDecodedCommand : Obligations.StepRunsTheDecodedCommand := fun _ _ _ _ hpending hdec =>
  (step_of_pending hpending).trans (runCommand_of_decode hdec _)

/-- Settles O9: the first step writes the port, and the second runs DEC.PUT on it. -/
theorem drivenRecordIsTheOneDecorated : Obligations.DrivenRecordIsTheOneDecorated := fun s r rest hpending =>
  ⟨{ s with port := r, pending := .issue 0x4100#16 :: rest }, step_of_pending hpending,
    stepRunsTheDecodedCommand _ _ rest _ rfl (decode_encode .decPut)⟩

end Sys2Proof.Machine

namespace Sys2Proof.Machine

open Sys2Proof.Spec

/-! ## The table form and the bit-serial form (R82, R89) -/

section Updates

/-- The update with its table index as bytes: the mask of R82 keeps what the index holds anyway. -/
theorem crcStep_eq (s : Word) (b : Byte) : crcStep s b = crcTable (b ^^^ s.setWidth 8) ^^^ (s >>> 8) := by
  have hindex : ((zext16 b ^^^ s) &&& 0x00FF#16).setWidth 8 = b ^^^ s.setWidth 8 := by
    ext i hi; interval_cases i <;> simp [zext16]
  rw [crcStep, hindex]

/-- Shifting out zeros brings no feedback (R80). -/
theorem crcShifts_of_low_zero {c : Word} {n : Nat} (h : ∀ i < n, c.getLsbD i = false) : crcShifts n c = c >>> n := by
  induction n generalizing c with
  | zero => rfl
  | succ n ih =>
    have hfirst : crcShift c = c >>> 1 := if_neg (by rw [h 0 n.succ_pos]; exact Bool.false_ne_true)
    have hrest : ∀ i < n, (c >>> 1).getLsbD i = false := fun i hi => by
      rw [BitVec.getLsbD_ushiftRight]; exact h (1 + i) (by omega)
    rw [crcShifts, hfirst, ih hrest, ← BitVec.shiftRight_add, Nat.add_comm]

/-- A byte in the high half comes down unchanged in eight shifts. -/
theorem crcShifts_eight_shiftLeft (b : Byte) : crcShifts 8 (zext16 b <<< 8) = zext16 b := by
  rw [crcShifts_of_low_zero fun i hi => by simp [hi]]
  ext i hi; interval_cases i <;> simp [zext16]

/-- Eight shifts look the low byte up and bring the high byte down. -/
theorem crcShifts_eight (c : Word) : crcShifts 8 c = crcTable (c.setWidth 8) ^^^ (c >>> 8) := by
  have hsplit : c = zext16 (c.setWidth 8) ^^^ (zext16 (c.extractLsb' 8 8) <<< 8) := by
    ext i hi; interval_cases i <;> simp [zext16]
  have hhigh : zext16 (c.extractLsb' 8 8) = c >>> 8 := by
    ext i hi; interval_cases i <;> simp [zext16]
  calc crcShifts 8 c
      = crcShifts 8 (zext16 (c.setWidth 8)) ^^^ crcShifts 8 (zext16 (c.extractLsb' 8 8) <<< 8) := by
        rw [← crcShifts_xor, ← hsplit]
    _ = crcTable (c.setWidth 8) ^^^ (c >>> 8) := by
        rw [crcShifts_eight_shiftLeft, hhigh, crcTable_eq_crcDerive, crcDerive]

theorem crcStep_eq_crcStepSerial (s : Word) (b : Byte) : crcStep s b = crcStepSerial s b := by
  have hlow : (s ^^^ zext16 b).setWidth 8 = b ^^^ s.setWidth 8 := by
    ext i hi; simp [zext16, Bool.xor_comm]
  have hhigh : (s ^^^ zext16 b) >>> 8 = s >>> 8 := by
    ext i hi; simp [zext16]
  rw [crcStep_eq, crcStepSerial, crcShifts_eight, hlow, hhigh]

end Updates

/-! ## The residue (R90) -/

section Residue

variable {s w : Word} {hi lo : Byte}

/-- Bit 15 after a shift is the bit shifted out: 0x8408 has bit 15 and the shift leaves it 0 (R89). -/
theorem getLsbD_crcShift_top (c : Word) : (crcShift c).getLsbD 15 = c.getLsbD 0 := by
  unfold crcShift
  split
  · rename_i h; simp [h]
  · rename_i h; simpa using h

/-- A shift loses nothing: bit 15 of its result tells whether the feedback was added. -/
theorem crcShift_injective : Function.Injective crcShift := by
  intro a b h
  have hbit : a.getLsbD 0 = b.getLsbD 0 := by rw [← getLsbD_crcShift_top, h, getLsbD_crcShift_top]
  have hshift : a >>> 1 = b >>> 1 := by
    unfold crcShift at h
    rw [hbit] at h
    split at h
    · exact (BitVec.xor_left_inj _).mp h
    · exact h
  refine BitVec.eq_of_getLsbD_eq fun i _ => ?_
  cases i with
  | zero => exact hbit
  | succ i => simpa [Nat.add_comm] using congrArg (BitVec.getLsbD · i) hshift

theorem crcShifts_injective (n : Nat) : Function.Injective (crcShifts n) := by
  induction n with
  | zero => exact Function.injective_id
  | succ n ih => exact ih.comp crcShift_injective

theorem swap16_joinBytes (hi lo : Byte) : swap16 (joinBytes hi lo) = joinBytes lo hi := by
  rw [swap16, joinBytes_low, joinBytes_high]

/-- Two bytes go through the generator as one word with the first in its low half, the half shifted out first (R89). -/
theorem crcRun_pair (s : Word) (b₀ b₁ : Byte) : crcRun s [b₀, b₁] = crcShifts 16 (s ^^^ joinBytes b₁ b₀) := by
  have hjoin : s ^^^ joinBytes b₁ b₀ = (s ^^^ zext16 b₀) ^^^ (zext16 b₁ <<< 8) := by
    unfold joinBytes; ext i hi; interval_cases i <;> simp [zext16]
  calc crcRun s [b₀, b₁]
      = crcShifts 8 (crcShifts 8 (s ^^^ zext16 b₀) ^^^ zext16 b₁) := by
        rw [crcRun_cons, crcRun_cons, crcRun_nil, crcStep_eq_crcStepSerial, crcStep_eq_crcStepSerial, crcStepSerial,
          crcStepSerial]
    _ = crcShifts 8 (crcShifts 8 (s ^^^ joinBytes b₁ b₀)) := by
        rw [hjoin, crcShifts_xor 8 (s ^^^ zext16 b₀), crcShifts_eight_shiftLeft]
    _ = crcShifts 16 (s ^^^ joinBytes b₁ b₀) := (crcShifts_add 8 8 _).symm

/-- The final value is a word swapped exactly when the state and the word are complements. -/
theorem crcFinal_eq_swap16_iff : crcFinal s = swap16 w ↔ s ^^^ w = 0xFFFF#16 := by
  constructor
  · intro h
    have hw : s ^^^ 0xFFFF#16 = w := Function.LeftInverse.injective swap16_swap16 h
    rw [← hw, ← BitVec.xor_assoc, BitVec.xor_self, BitVec.zero_xor]
  · intro h
    rw [crcFinal, ← h, ← BitVec.xor_assoc, BitVec.xor_self, BitVec.zero_xor]

/-- Two bytes take a state to the residue exactly when they are its final value, high byte first: sixteen shifts take
the word of ones, and no other, to 0xF0B8. -/
theorem crcRun_pair_eq_residue_iff :
    crcRun s [hi, lo] = 0xF0B8#16 ↔ crcFinal s = joinBytes hi lo := by
  have hones : crcShifts 16 0xFFFF#16 = 0xF0B8#16 := by simp [crcShifts, crcShift]
  rw [crcRun_pair, ← hones, (crcShifts_injective 16).eq_iff, ← swap16_joinBytes lo hi, crcFinal_eq_swap16_iff]

end Residue

/-! ## The streaming registers over a run of commands (R92) -/

section Streaming

variable {s t : State} {i : Instr}

/-- What a command does to the pair `crc_acc`, `crc_result` (R86 to R88, R92). -/
def crcRegsAfter (regs : Word × Word) : Instr → Word × Word
  | .crcInit => (0xFFFF#16, regs.2)
  | .crcUpd bb => (crcStep regs.1 bb, regs.2)
  | .crcFin => (regs.1, crcFinal regs.1)
  | .bufClr | .bufPush _ | .frmFind | .frmVal | .frmSkip | .decClr | .decPut => regs

theorem crcRegsAfter_of_not_isCrc (hi : isCrc i = false) (regs : Word × Word) : crcRegsAfter regs i = regs := by
  cases i with
  | crcInit | crcUpd | crcFin => cases hi
  | _ => rfl

theorem Effect.crcRegs_eq (h : Effect s i t) : (t.crcAcc, t.crcResult) = crcRegsAfter (s.crcAcc, s.crcResult) i := by
  cases h <;> rfl

/-- Commands issued one after another complete, and act on the two registers one after another. -/
theorem performAll_issueInstr (cmds : List Instr) (s : State) : ∃ t, performAll (cmds.map issueInstr) s = .next t ∧
    (t.crcAcc, t.crcResult) = cmds.foldl crcRegsAfter (s.crcAcc, s.crcResult) := by
  induction cmds generalizing s with
  | nil => exact ⟨s, rfl, rfl⟩
  | cons i cmds ih =>
    obtain ⟨u, hu⟩ := exists_effect i s
    obtain ⟨t, hrun, hregs⟩ := ih u
    refine ⟨t, ?_, ?_⟩
    · simpa only [List.map_cons, performAll, hu.perform_issueInstr] using hrun
    · rw [hregs, hu.crcRegs_eq, List.foldl_cons]

/-- Commands of the other families may be left out. -/
theorem foldl_crcRegsAfter_filter (cmds : List Instr) (regs : Word × Word) :
    (cmds.filter isCrc).foldl crcRegsAfter regs = cmds.foldl crcRegsAfter regs := by
  rw [List.foldl_filter]
  congr 1
  funext regs i
  split
  · rfl
  · rename_i hi; exact (crcRegsAfter_of_not_isCrc (Bool.eq_false_iff.mpr hi) regs).symm

/-- CRC.UPD of each byte runs the update over the bytes. -/
theorem foldl_crcRegsAfter_crcUpd (bytes : List Byte) (regs : Word × Word) :
    (bytes.map Instr.crcUpd).foldl crcRegsAfter regs = (crcRun regs.1 bytes, regs.2) := by
  induction bytes generalizing regs with
  | nil => rfl
  | cons b bytes ih => rw [List.map_cons, List.foldl_cons, ih]; rfl

theorem foldl_crcRegsAfter_pseudoChecksum (bytes : List Byte) (regs : Word × Word) :
    (Instr.crcInit :: (bytes.map Instr.crcUpd ++ [.crcFin])).foldl crcRegsAfter regs =
      (crcRun 0xFFFF#16 bytes, checksum bytes) := by
  rw [List.foldl_cons, List.foldl_append, foldl_crcRegsAfter_crcUpd]; rfl

end Streaming

/-! ## The three CRC commands (R86 to R88) -/

section Commands

theorem exec_crcInit (s : State) : exec .crcInit s = .next { s with crcAcc := 0xFFFF#16, status := 0x00#8 } :=
  Effect.crcInit.exec_eq

theorem exec_crcUpd (bb : Byte) (s : State) :
    exec (.crcUpd bb) s = .next { s with crcAcc := crcStep s.crcAcc bb, status := 0x00#8 } := (Effect.crcUpd bb).exec_eq

theorem exec_crcFin (s : State) :
    exec .crcFin s = .next { s with crcResult := crcFinal s.crcAcc, status := 0x00#8 } := Effect.crcFin.exec_eq

/-- The byte swap as two shifts (00_scope.md section 6). -/
theorem swap16_eq_or (v : Word) : swap16 v = v <<< 8 ||| v >>> 8 := by
  unfold swap16 joinBytes; ext i hi; interval_cases i <;> simp

end Commands

/-! ## The obligations of 40_checksum_engine.md -/

/-- Settles O37: the table entry is eight shifts of the low byte, and shifting is linear over XOR. -/
theorem bitSerialFormEqualsTableForm : Obligations.BitSerialFormEqualsTableForm := crcStep_eq_crcStepSerial

/-- Settles O38: two bytes leave the residue exactly when they are the checksum's, so the checksum's own do. -/
theorem residueTellsAValidFrame : Obligations.ResidueTellsAValidFrame := by
  refine ⟨fun m => ?_, fun m hi lo => ?_⟩
  · rw [crcRun_append]
    exact crcRun_pair_eq_residue_iff.mpr (joinBytes_fields (checksum m)).symm
  · rw [crcRun_append, crcRun_pair_eq_residue_iff, ← joinBytes_toNat, BitVec.toNat_inj, checksum]

/-- Settles O39: the two registers see the CRC commands alone, and those run the update over the bytes. -/
theorem streamingCommandsComputeChecksum : Obligations.StreamingCommandsComputeChecksum := by
  intro bytes cmds s hcmds
  obtain ⟨t, hrun, hregs⟩ := performAll_issueInstr cmds s
  rw [← foldl_crcRegsAfter_filter, hcmds, foldl_crcRegsAfter_pseudoChecksum] at hregs
  exact ⟨t, hrun, congrArg Prod.snd hregs⟩

/-- Settles O12, by the command's one outcome. -/
theorem crcInitSetsTheStartValue : Obligations.CrcInitSetsTheStartValue := ⟨decode_encode .crcInit, exec_crcInit⟩

/-- Settles O13: the word is the command's encoding, and R82's mask is no more than taking the low byte. -/
theorem crcUpdStepsTheAccumulator : Obligations.CrcUpdStepsTheAccumulator := by
  refine ⟨fun bb => decode_encode (.crcUpd bb), fun bb s => ?_, fun s hacc => ?_⟩
  · rw [exec_crcUpd, crcStep_eq]
  · have hstep : crcStep 0xFFFF#16 0x41#8 = 0x5C0A#16 := by decide
    rw [exec_crcUpd, hacc, hstep]

/-- Settles O14: the byte swap is two shifts, and CRC.INIT leaves the state whose final value is 0. -/
theorem crcFinGivesTheSwappedComplement : Obligations.CrcFinGivesTheSwappedComplement := by
  refine ⟨decode_encode .crcFin, fun s => ?_, fun s t hinit => ?_, fun s hacc => ?_⟩
  · rw [exec_crcFin, crcFinal, swap16_eq_or]
  · have hacc : t.crcAcc = 0xFFFF#16 := by cases exec_eq_next_iff.mp hinit; rfl
    have hfinal : crcFinal 0xFFFF#16 = 0x0000#16 := by decide
    rw [exec_crcFin, hacc, hfinal]
  · have hfinal : crcFinal 0xCE10#16 = 0xEF31#16 := by decide
    rw [exec_crcFin, hacc, hfinal]

end Sys2Proof.Machine

namespace Sys2Proof.Machine

open Sys2Proof.Spec

/-! ## Patterns side by side, one inside the other, and overlapping (R100) -/

section Patterns

variable {s : State} {p q : List Byte} {i k : Nat}

/-- A pattern in two parts matches when its parts match one behind the other. -/
theorem matches_append_iff : Matches s (p ++ q) i ↔ Matches s p i ∧ Matches s q (i + p.length) := by
  have happend : (p ++ q).length = p.length + q.length := List.length_append
  constructor
  · rintro ⟨hlen, hb⟩
    refine ⟨⟨by omega, fun k hk => ?_⟩, ⟨by omega, fun k hk => ?_⟩⟩
    · rw [hb k (by omega), List.getElem_append_left hk]
    · rw [Nat.add_assoc, hb (p.length + k) (by omega), List.getElem_append_right (Nat.le_add_right _ _)]
      simp only [Nat.add_sub_cancel_left]
  · rintro ⟨⟨-, hp⟩, hlen, hq⟩
    refine ⟨by omega, fun k hk => ?_⟩
    rw [List.getElem_append]
    split
    · exact hp k ‹_›
    · rw [← hq (k - p.length) (by omega), Nat.add_assoc, Nat.add_sub_cancel' (by omega)]

/-- A pattern that matches inside another is a run of it. -/
theorem Matches.infix_of_inside (hp : Matches s p i) (hq : Matches s q (i + k)) (hle : k + q.length ≤ p.length) :
    q <:+: p := by
  have hprefix : q <+: p.drop k := by
    refine List.prefix_iff_getElem.mpr ⟨by rw [List.length_drop]; omega, fun j hj => ?_⟩
    rw [List.getElem_drop, hp.overlap_agree hq (by omega) hj]
  exact hprefix.isInfix.trans (List.drop_suffix k p).isInfix

/-- Where a pattern matches before the end of another, the other's rest begins it. -/
theorem Matches.drop_prefix_of_overlap (hp : Matches s p i) (hq : Matches s q (i + k))
    (hle : p.length ≤ k + q.length) : p.drop k <+: q := by
  refine List.prefix_iff_getElem.mpr ⟨by rw [List.length_drop]; omega, fun j hj => ?_⟩
  rw [List.length_drop] at hj
  rw [List.getElem_drop, hp.overlap_agree hq (by omega) (by omega)]

/-- No rest of START begins START, so it does not overlap itself (R106). -/
theorem Matches.startMarker_alone (h : Matches s startMarker i) (hpos : 1 ≤ k) (hlt : k ≤ 7) :
    ¬ Matches s startMarker (i + k) := by
  have hborder : ∀ k < 8, 1 ≤ k → ¬ startMarker.drop k <+: startMarker := by decide
  exact fun h' => hborder k (by omega) hpos (h.drop_prefix_of_overlap h' (Nat.le_add_left _ _))

/-- No rest of END begins END, so it does not overlap itself. -/
theorem Matches.endMarker_alone (h : Matches s endMarker i) (hpos : 1 ≤ k) (hlt : k ≤ 4) :
    ¬ Matches s endMarker (i + k) := by
  have hborder : ∀ k < 5, 1 ≤ k → ¬ endMarker.drop k <+: endMarker := by decide
  exact fun h' => hborder k (by omega) hpos (h.drop_prefix_of_overlap h' (Nat.le_add_left _ _))

/-- A buffer that holds exactly these bytes matches them at index 0. -/
theorem matches_zero_of_holds (h : Holds s p) : Matches s p 0 := by
  obtain ⟨hlen, hbytes⟩ := h
  exact ⟨by rw [hlen, Nat.zero_add], fun k hk => by rw [Nat.zero_add]; exact hbytes k hk⟩

end Patterns

/-! ## The first match (R100) -/

section FirstMatch

variable {s : State} {pat : List Byte}

theorem IsFirstMatch.unique (hp : pat ≠ []) {start i j : Nat} (hi : IsFirstMatch s pat start i)
    (hj : IsFirstMatch s pat start j) : i = j := by
  rw [← firstMatch_eq_some_iff hp] at hi hj
  exact Option.some.inj (hi.symm.trans hj)

/-- A search may begin past indices where the pattern does not match. -/
theorem firstMatch_eq_of_no_match_between (hp : pat ≠ []) {a b : Nat} (hab : a ≤ b)
    (hnone : ∀ j, a ≤ j → j < b → ¬ Matches s pat j) : firstMatch s pat a = firstMatch s pat b := by
  ext i
  rw [firstMatch_eq_some_iff hp, firstMatch_eq_some_iff hp]
  constructor
  · rintro ⟨hai, hm, hleast⟩
    have hbi : b ≤ i := Nat.not_lt.mp fun hlt => hnone i hai hlt hm
    exact ⟨hbi, hm, fun j hj => hleast j (hab.trans hj)⟩
  · rintro ⟨hbi, hm, hleast⟩
    refine ⟨hab.trans hbi, hm, fun j haj hji => ?_⟩
    by_cases hbj : b ≤ j
    · exact hleast j hbj hji
    · exact hnone j haj (Nat.not_le.mp hbj)

end FirstMatch

/-! ## A frame of the wire format (R70) is located -/

section WireFrame

variable {s : State} {payload : List Byte} {fill : Byte} {p0 : Nat}

theorem wireFrame_length (payload : List Byte) (fill : Byte) :
    (wireFrame payload fill).length = payload.length + 16 := by
  simp only [wireFrame, coveredSpan, List.length_append, startMarker_length, endMarker_length, checksumBytes_length,
    List.length_singleton]
  omega

/-- The parts of a frame lie one behind the other. -/
theorem Matches.wireFrame_parts (h : Matches s (wireFrame payload fill) p0) :
    Matches s startMarker p0 ∧ Matches s payload (p0 + 8) ∧ Matches s endMarker (p0 + payload.length + 8) := by
  have hend : p0 + (startMarker ++ payload).length = p0 + payload.length + 8 := by
    rw [List.length_append, startMarker_length]; omega
  rw [wireFrame, coveredSpan, matches_append_iff, matches_append_iff, matches_append_iff, matches_append_iff, hend] at h
  obtain ⟨⟨⟨⟨hstart, hpayload⟩, hendm⟩, -⟩, -⟩ := h
  exact ⟨hstart, hpayload, hendm⟩

/-- The first END of a frame is its own when its payload has none: an earlier one would lie in START, in the payload or
across the frame's END. -/
theorem Matches.wireFrame_firstEnd (h : Matches s (wireFrame payload fill) p0) (hfree : ¬ endMarker <:+: payload) :
    IsFirstMatch s endMarker p0 (p0 + payload.length + 8) := by
  obtain ⟨hstart, hpayload, hendm⟩ := h.wireFrame_parts
  refine ⟨by omega, hendm, fun j hj hlt hm => ?_⟩
  obtain ⟨k, rfl⟩ := Nat.exists_eq_add_of_le (end_past_start hstart hm hj)
  by_cases hinside : k + 5 ≤ payload.length
  · exact hfree (hpayload.infix_of_inside hm hinside)
  · obtain ⟨d, hd⟩ := Nat.exists_eq_add_of_lt hlt
    rw [hd, Nat.add_assoc] at hendm
    exact hm.endMarker_alone (by omega) (by omega) hendm

/-- FRM.FIND's search holds a frame that begins with the first START (R103). -/
theorem locateFrame_of_wireFrame (h : Matches s (wireFrame payload fill) p0) (hfree : ¬ endMarker <:+: payload)
    (hfirst : IsFirstMatch s startMarker s.scanOrigin p0) :
    locateFrame s = some ⟨p0, p0 + payload.length + 8, p0 + payload.length + 15⟩ := by
  have hlen : p0 + (payload.length + 16) ≤ s.len := wireFrame_length payload fill ▸ h.1
  exact locateFrame_eq_some_iff.mpr ⟨_, _, hfirst, h.wireFrame_firstEnd hfree, by omega, rfl⟩

end WireFrame

/-! ## FRM.FIND (R103) -/

section FrmFind

variable {s t : State}

theorem exec_frmFind_of_some {c : Candidate} (h : locateFrame s = some c) :
    exec .frmFind s = .next { s with cand := some c, frm := none, status := 0x01#8 } := (Effect.frmFind c h).exec_eq

theorem exec_frmFind_of_none (h : locateFrame s = none) :
    exec .frmFind s = .next { s with cand := none, frm := none, status := 0x80#8 } := (Effect.frmFindNone h).exec_eq

/-- The search holds nothing exactly when no START with an END after it has its trailer in the buffer (R103). -/
theorem locateFrame_eq_none_iff : locateFrame s = none ↔ ∀ p0 p1, IsFirstMatch s startMarker s.scanOrigin p0 →
    IsFirstMatch s endMarker p0 p1 → s.len ≤ p1 + 7 := by
  simp only [Option.eq_none_iff_forall_ne_some, ne_eq, locateFrame_eq_some_iff]
  constructor
  · exact fun h p0 p1 h0 h1 => Nat.not_lt.mp fun hlt => h _ ⟨p0, p1, h0, h1, hlt, rfl⟩
  · rintro h _ ⟨p0, p1, h0, h1, hlt, -⟩
    exact Nat.not_lt.mpr (h p0 p1 h0 h1) hlt

/-- FRM.FIND may be repeated: it writes nothing that its search reads (R103). -/
theorem Effect.exec_frmFind_again (h : Effect s .frmFind t) : exec .frmFind t = .next t := by
  have hsame : locateFrame t = locateFrame s := by cases h <;> exact locateFrame_congr rfl rfl rfl
  cases h with
  | frmFindNone hloc => exact exec_frmFind_of_none (hsame.trans hloc)
  | frmFind c hloc => exact exec_frmFind_of_some (hsame.trans hloc)

/-- A buffer that holds one frame and nothing else, searched from its start. -/
theorem exec_frmFind_of_holds_wireFrame {payload : List Byte} {fill : Byte} (h : Holds s (wireFrame payload fill))
    (horigin : s.scanOrigin = 0) (hfree : ¬ endMarker <:+: payload) : exec .frmFind s =
      .next { s with cand := some ⟨0, payload.length + 8, payload.length + 15⟩, frm := none, status := 0x01#8 } := by
  have hm := matches_zero_of_holds h
  have hfirst : IsFirstMatch s startMarker s.scanOrigin 0 :=
    ⟨horigin.le, hm.wireFrame_parts.1, fun j _ hj => absurd hj (Nat.not_lt_zero j)⟩
  have hloc := locateFrame_of_wireFrame hm hfree hfirst
  rw [Nat.zero_add] at hloc
  exact exec_frmFind_of_some hloc

end FrmFind

/-! ## The obligations of 41_frame_delimiter.md -/

/-- Settles O17: FRM.FIND answers what its search locates; R103's example is the frame of the payload "AB". -/
theorem frmFindHoldsTheFirstCandidate : Obligations.FrmFindHoldsTheFirstCandidate := by
  refine ⟨decode_encode .frmFind, ?found, ?notFound, ?again, ?sample⟩
  case found =>
    exact fun s p0 p1 h0 h1 hlt => exec_frmFind_of_some (locateFrame_eq_some_iff.mpr ⟨p0, p1, h0, h1, hlt, rfl⟩)
  case notFound => exact fun s h => exec_frmFind_of_none (locateFrame_eq_none_iff.mpr h)
  case again => exact fun s t h => (exec_eq_next_iff.mp h).exec_frmFind_again
  case sample =>
    intro s hholds horigin
    have hframe : frameAB = wireFrame [0x41#8, 0x42#8] 0x00#8 := by decide +kernel
    exact exec_frmFind_of_holds_wireFrame (hframe ▸ hholds) horigin (by decide)

/-- Settles O41: no END begins inside START. -/
theorem searchForEndMayStartPastStart : Obligations.SearchForEndMayStartPastStart := by
  intro s p0 hstart
  refine ⟨?same, fun p1 hfind => ?bound⟩
  case same =>
    refine firstMatch_eq_of_no_match_between endMarker_ne_nil (Nat.le_add_right p0 8) fun j hj hlt hm => ?_
    exact absurd (end_past_start hstart hm hj) (Nat.not_le.mpr hlt)
  case bound =>
    obtain ⟨hle, hm, -⟩ := (firstMatch_eq_some_iff endMarker_ne_nil).mp hfind
    have hpast := end_past_start hstart hm hle
    omega

/-- Settles O42: in a run of five 0x1B START matches at the second, hence not at the first. -/
theorem startDoesNotOverlapItself : Obligations.StartDoesNotOverlapItself := by
  refine ⟨fun s p0 k h => h.startMarker_alone, fun s hholds => ?run⟩
  case run =>
    have hsecond : Matches s startMarker (0 + 1) :=
      (matches_append_iff (p := [0x1B#8]).mp (matches_zero_of_holds hholds)).2
    refine (firstMatch_eq_some_iff startMarker_ne_nil).mpr ⟨Nat.zero_le 1, hsecond, fun j _ hj hm => ?_⟩
    obtain rfl : j = 0 := Nat.lt_one_iff.mp hj
    exact hm.startMarker_alone le_rfl (by decide) hsecond

/-- Settles O44: without one of the two markers the search holds nothing. -/
theorem missingMarkerIsIncomplete : Obligations.MissingMarkerIsIncomplete := by
  refine fun s => ⟨fun hstart => ?noStart, fun p0 h0 hend => ?noEnd⟩
  case noStart =>
    have hloc : locateFrame s = none :=
      locateFrame_eq_none_iff.mpr fun q0 _ ⟨hge, hm, _⟩ => absurd hm (hstart q0 hge)
    exact ⟨_, exec_frmFind_of_none hloc, rfl, rfl⟩
  case noEnd =>
    have hloc : locateFrame s = none := locateFrame_eq_none_iff.mpr fun q0 q1 hq0 ⟨hge, hm, _⟩ => by
      obtain rfl := hq0.unique startMarker_ne_nil h0
      exact absurd hm (hend q1 hge)
    exact ⟨_, exec_frmFind_of_none hloc, rfl, rfl⟩

/-- Settles O45: a frame is its payload and 16 bytes more, and END lies 8 past START at least. -/
theorem shortestFrameHasSixteenBytes : Obligations.ShortestFrameHasSixteenBytes := by
  refine ⟨wireFrame_length [], fun s f hholds horigin => ?found, fun s hshort => ?tooShort⟩
  case found => exact exec_frmFind_of_holds_wireFrame hholds horigin (by decide)
  case tooShort =>
    refine exec_frmFind_of_none (locateFrame_eq_none_iff.mpr ?_)
    rintro p0 p1 ⟨hge, hstart, -⟩ ⟨hle, hend, -⟩
    have hpast := end_past_start hstart hend hle
    omega

/-- Settles O15, by the command's one outcome. -/
theorem bufClrEmptiesTheBuffer : Obligations.BufClrEmptiesTheBuffer :=
  ⟨decode_encode .bufClr, fun _ => Effect.bufClr.exec_eq⟩

/-- Settles O16: the write at `len` is behind every byte the buffer and a held candidate have. -/
theorem bufPushAppendsOneByte : Obligations.BufPushAppendsOneByte := by
  refine ⟨fun bb => decode_encode (.bufPush bb), fun bb s => ⟨fun hfull => ?full, fun hroom => ?append⟩⟩
  case full => exact (Effect.bufPushFull bb hfull).exec_eq
  case append =>
    refine ⟨_, (Effect.bufPush bb hroom).exec_eq, rfl, fun a ha => bufByte_memWrite1_other ha bb s, fun hbuf => ?_,
      fun c hcand hc => ⟨hcand, ?_⟩⟩
    · exact ⟨bufByte_memWrite1_same hbuf.canonical s.len bb, Memory.wf_write hbuf.canonical s.len bb⟩
    · exact hc.congr (Nat.le_succ _) fun a ha => bufByte_memWrite1_other ha.ne bb s

end Sys2Proof.Machine

namespace Sys2Proof.Machine

open Sys2Proof.Spec

/-! ## One changed byte changes the checksum (R127) -/

section OneByteChanged

variable {s s' : State}

theorem zext16_injective : Function.Injective zext16 := fun b b' h => by
  simpa [zext16] using congrArg (BitVec.setWidth 8) h

/-- For one and the same byte the update loses nothing of the state. -/
theorem crcStep_left_injective (b : Byte) : Function.Injective (crcStep · b) := fun v w h => by
  simp only [crcStep_eq_crcStepSerial, crcStepSerial] at h
  exact (BitVec.xor_left_inj _).mp (crcShifts_injective 8 h)

/-- From one and the same state the update loses nothing of the byte. -/
theorem crcStep_right_injective (v : Word) : Function.Injective (crcStep v) := fun b b' h => by
  simp only [crcStep_eq_crcStepSerial, crcStepSerial] at h
  exact zext16_injective ((BitVec.xor_right_inj _).mp (crcShifts_injective 8 h))

theorem crcRun_left_injective (bytes : List Byte) : Function.Injective (crcRun · bytes) := by
  induction bytes with
  | nil => exact Function.injective_id
  | cons b bytes ih => exact ih.comp (crcStep_left_injective b)

/-- Two sequences that differ in one byte have two checksums: the states part at that byte and never meet again. -/
theorem checksum_ne_of_one_byte {b b' : Byte} (hne : b ≠ b') (before behind : List Byte) :
    checksum (before ++ b :: behind) ≠ checksum (before ++ b' :: behind) := by
  intro h
  have hrun := crcFinal_injective h
  rw [crcRun_append, crcRun_append, crcRun_cons, crcRun_cons] at hrun
  exact hne (crcStep_right_injective _ (crcRun_left_injective behind hrun))

theorem byteRun_congr {a n : Nat} (h : ∀ i, a ≤ i → i < a + n → bufByte s' i = bufByte s i) :
    byteRun s' a n = byteRun s a n :=
  List.map_congr_left fun i hi => h i (List.mem_range'_1.mp hi).1 (List.mem_range'_1.mp hi).2

/-- A span is what lies before one of its bytes, that byte, and what lies behind it. -/
theorem bufSpan_eq_at (s : State) {a b j : Nat} (haj : a ≤ j) (hjb : j ≤ b) :
    bufSpan s a b = byteRun s a (j - a) ++ bufByte s j :: byteRun s (j + 1) (b - j) := by
  have hlen : b + 1 - a = (j - a) + (1 + (b - j)) := by omega
  rw [bufSpan_eq_byteRun, hlen, byteRun_add, byteRun_add, Nat.add_sub_cancel' haj, byteRun_one, List.singleton_append]

/-- A byte changed inside a span, and nowhere else, changes the span's checksum. -/
theorem checksum_bufSpan_ne {a b j : Nat} (haj : a ≤ j) (hjb : j ≤ b) (hsame : ∀ i, i ≠ j → bufByte s' i = bufByte s i)
    (hne : bufByte s' j ≠ bufByte s j) : checksum (bufSpan s' a b) ≠ checksum (bufSpan s a b) := by
  have hbefore : byteRun s' a (j - a) = byteRun s a (j - a) := byteRun_congr fun i _ hi => hsame i (by omega)
  have hbehind : byteRun s' (j + 1) (b - j) = byteRun s (j + 1) (b - j) :=
    byteRun_congr fun i hi _ => hsame i (by omega)
  rw [bufSpan_eq_at s' haj hjb, bufSpan_eq_at s haj hjb, hbefore, hbehind]
  exact checksum_ne_of_one_byte hne _ _

/-- Flipping a bit of a byte changes the byte. -/
theorem xor_bit_ne (b : Byte) {k : Nat} (hk : k < 8) : b ^^^ (1#8 <<< k) ≠ b := by
  have hbit : ∀ k < 8, 1#8 <<< k ≠ 0#8 := by decide
  intro h
  exact hbit k hk ((BitVec.xor_right_inj b).mp (h.trans (BitVec.xor_zero (x := b)).symm))

end OneByteChanged

/-! ## FRM.VAL and FRM.SKIP (R120, R124) -/

section FrmValSkip

variable {s t : State} {i : Instr} {c : Candidate}

theorem exec_frmVal_of_eq (hcand : s.cand = some c) (heq : coveredChecksum s c = embeddedChecksum s c) :
    exec .frmVal s = .next { s with
      chkEmb := embeddedChecksum s c, chkComp := coveredChecksum s c, status := 0x02#8, frm := some (viewOf c) } :=
  (Effect.frmVal c hcand heq).exec_eq

theorem exec_frmVal_of_ne (hcand : s.cand = some c) (hne : coveredChecksum s c ≠ embeddedChecksum s c) :
    exec .frmVal s = .next { s with
      chkEmb := embeddedChecksum s c, chkComp := coveredChecksum s c, status := 0x81#8, frm := none } :=
  (Effect.frmValMismatch c hcand hne).exec_eq

theorem exec_frmSkip_of_some (hcand : s.cand = some c) : exec .frmSkip s =
    .next { s with scanOrigin := c.candStart + 1, cand := none, frm := none, status := 0x00#8 } :=
  (Effect.frmSkip c hcand).exec_eq

theorem exec_frmSkip_of_none (hcand : s.cand = none) : exec .frmSkip s = .next { s with status := 0xC2#8 } :=
  (Effect.frmSkipNone hcand).exec_eq

/-- FRM.VAL keeps the candidate on every outcome (R120). -/
theorem Effect.frmVal_keeps_cand (h : Effect s .frmVal t) : t.cand = s.cand := by
  cases h <;> rfl

/-- FRM.VAL may be repeated: it writes nothing that it reads (R120). -/
theorem Effect.exec_frmVal_again (h : Effect s .frmVal t) : exec .frmVal t = .next t := by
  cases h with
  | frmValNone hcand => exact (Effect.frmValNone (s := setStatus .noCandidate s) hcand).exec_eq
  | frmVal c hcand heq => exact exec_frmVal_of_eq hcand heq
  | frmValMismatch c hcand hne => exact exec_frmVal_of_ne hcand hne

/-- Only FRM.VAL writes the two checksum registers (R120). -/
theorem Effect.keeps_chk (h : Effect s i t) (hi : i ≠ .frmVal) : t.chkEmb = s.chkEmb ∧ t.chkComp = s.chkComp := by
  cases h with
  | frmValNone | frmVal | frmValMismatch => exact absurd rfl hi
  | _ => exact ⟨rfl, rfl⟩

/-- FRM.SKIP leaves no candidate (R124). -/
theorem Effect.frmSkip_drops_cand (h : Effect s .frmSkip t) : t.cand = none := by
  cases h with
  | frmSkipNone hcand => exact hcand
  | frmSkip => rfl

/-- The candidate held after FRM.FIND is the one its search locates (R103). -/
theorem Effect.frmFind_cand_eq (h : Effect s .frmFind t) : t.cand = locateFrame s := by
  cases h with
  | frmFindNone hloc | frmFind c hloc => exact hloc.symm

/-- The search locates a candidate of R14 again: R14 says that its markers are the first ones. -/
theorem State.CandidateOk.locateFrame_eq (h : s.CandidateOk c) : locateFrame s = some c := by
  have hend := h.endIs
  have hroom := h.roomForStart
  refine locateFrame_eq_some_iff.mpr ⟨c.candStart, c.candEndm, ⟨h.afterOrigin, h.startMatches, h.firstStart⟩,
    ⟨by omega, h.endMatches, h.firstEnd⟩, hend ▸ h.belowLen, ?_⟩
  rw [← hend]

/-- Just past a candidate's first byte the search is further than it was, and still within the buffer (R124). -/
theorem State.CandidateOk.resume_bounds (h : s.CandidateOk c) :
    s.scanOrigin < c.candStart + 1 ∧ c.candStart + 1 ≤ s.len := by
  have horigin := h.afterOrigin
  have hroom := h.roomForStart
  have hend := h.endIs
  have hlt := h.belowLen
  omega

/-- A command issued first is performed first (R48). -/
theorem performAll_issueInstr_cons (h : exec i s = .next t) (rest : List HostAction) :
    performAll (issueInstr i :: rest) s = performAll rest t := by
  rw [performAll, (exec_eq_next_iff.mp h).perform_issueInstr]

/-- When no other START is left, FRM.SKIP and FRM.FIND drop the candidate and hold no other (R124, R128). -/
theorem performAll_frmSkip_frmFind (hcand : s.cand = some c) (hnone : NoMatch s startMarker (c.candStart + 1)) :
    performAll [issueInstr .frmSkip, issueInstr .frmFind] s =
      .next { s with scanOrigin := c.candStart + 1, cand := none, frm := none, status := 0x80#8 } := by
  rw [performAll_issueInstr_cons (exec_frmSkip_of_some hcand)]
  refine performAll_issueInstr_cons (exec_frmFind_of_none (locateFrame_eq_none_iff.mpr ?_)) []
  exact fun p0 _ ⟨hge, hm, _⟩ => absurd hm (hnone p0 hge)

/-- The search may go on past a whole START: none begins inside it (R125). -/
theorem Matches.firstMatch_past_start {p : Nat} (h : Matches s startMarker p) :
    firstMatch s startMarker (p + 1) = firstMatch s startMarker (p + 8) := by
  refine firstMatch_eq_of_no_match_between startMarker_ne_nil (by omega) fun j hj hlt => ?_
  obtain ⟨k, rfl⟩ := Nat.exists_eq_add_of_le hj
  rw [Nat.add_assoc]
  exact h.startMarker_alone (by omega) (by omega)

end FrmValSkip

/-! ## A frame of the wire format (R70) is appended, found and accepted (R126, R128) -/

section AppendedFrame

variable {s t : State} {payload : List Byte} {fill : Byte} {p0 : Nat}

theorem coveredSpan_length (payload : List Byte) (fill : Byte) :
    (coveredSpan payload fill).length = payload.length + 14 := by
  have h := wireFrame_length payload fill
  rw [wireFrame, List.length_append, checksumBytes_length] at h
  omega

/-- Appended bytes match where the buffer ended. -/
theorem BytesAppended.matches_added {bytes : List Byte} (h : BytesAppended s bytes t) : Matches t bytes s.len :=
  ⟨h.len.ge, h.added⟩

/-- When no START is left in the buffer, the first one is that of the frame appended: an earlier one would lie in the old
bytes or overlap the frame's. -/
theorem BytesAppended.wireFrame_firstStart (h : BytesAppended s (wireFrame payload fill) t)
    (hnone : NoMatch s startMarker s.scanOrigin) (horigin : s.scanOrigin ≤ s.len) :
    IsFirstMatch t startMarker t.scanOrigin s.len := by
  have hstart := h.matches_added.wireFrame_parts.1
  rw [h.scanOrigin]
  refine ⟨horigin, hstart, fun j hj hlt hm => ?_⟩
  by_cases hold : j + 8 ≤ s.len
  · exact hnone j hj ((matches_iff_of_agree hold (h.len ▸ Nat.le_add_right _ _) h.kept).mp hm)
  · obtain ⟨k, hk⟩ := Nat.exists_eq_add_of_le hlt.le
    exact hm.startMarker_alone (by omega) (by omega) (hk ▸ hstart)

/-- The candidate of a frame with this payload that begins at `p0` (R70, R103). -/
def wireCandidate (payload : List Byte) (p0 : Nat) : Candidate :=
  ⟨p0, p0 + payload.length + 8, p0 + payload.length + 15⟩

/-- The span FRM.VAL's checksum covers is the frame's (R70, R120). -/
theorem Matches.wireFrame_bufSpan (h : Matches s (wireFrame payload fill) p0) :
    bufSpan s p0 (p0 + payload.length + 13) = coveredSpan payload fill := by
  have hlen : p0 + payload.length + 13 + 1 - p0 = (coveredSpan payload fill).length := by
    rw [coveredSpan_length]; omega
  rw [bufSpan_eq_byteRun, hlen, (matches_append_iff.mp h).1.byteRun_eq]

/-- The checksum a frame carries is the one its sender computed (R43, R70). -/
theorem Matches.wireFrame_embeddedChecksum (h : Matches s (wireFrame payload fill) p0) :
    embeddedChecksum s (wireCandidate payload p0) = checksum (coveredSpan payload fill) := by
  have hsum := (matches_append_iff.mp h).2.byteRun_eq
  rw [checksumBytes_length, byteRun_two, ← checksumBytes_joinBytes, coveredSpan_length, ← Nat.add_assoc] at hsum
  exact checksumBytes_injective hsum

/-- FRM.VAL accepts a frame and holds its view (R120, R121). -/
theorem exec_frmVal_of_wireFrame (h : Matches s (wireFrame payload fill) p0)
    (hcand : s.cand = some (wireCandidate payload p0)) : exec .frmVal s =
      .next { s with
        chkEmb := checksum (coveredSpan payload fill), chkComp := checksum (coveredSpan payload fill)
        status := 0x02#8, frm := some ⟨p0, p0 + payload.length + 13, p0 + 8, payload.length⟩ } := by
  have hemb := h.wireFrame_embeddedChecksum
  have hcov : coveredChecksum s (wireCandidate payload p0) = checksum (coveredSpan payload fill) :=
    congrArg checksum h.wireFrame_bufSpan
  have hview : viewOf (wireCandidate payload p0) = ⟨p0, p0 + payload.length + 13, p0 + 8, payload.length⟩ := by
    simp only [viewOf, wireCandidate, FrameView.mk.injEq, true_and]
    omega
  rw [exec_frmVal_of_eq hcand (hcov.trans hemb.symm), hcov, hemb, hview]

/-- The block shows an accepted frame: its payload, its covered span and its checksum (R120 to R122). -/
structure ShowsFrame (payload : List Byte) (fill : Byte) (t : State) : Prop where
  status_eq : t.status = 0x02#8
  payload_eq : payloadBytes t = some payload
  view_eq : viewBytes t = some (coveredSpan payload fill)
  chkEmb_eq : t.chkEmb = checksum (coveredSpan payload fill)

/-- FRM.VAL shows the frame it accepts. -/
theorem frmVal_showsFrame (h : Matches s (wireFrame payload fill) p0)
    (hcand : s.cand = some (wireCandidate payload p0)) : ∃ t, exec .frmVal s = .next t ∧ ShowsFrame payload fill t :=
  ⟨_, exec_frmVal_of_wireFrame h hcand,
    { status_eq := rfl
      payload_eq := congrArg some h.wireFrame_parts.2.1.byteRun_eq
      view_eq := congrArg some h.wireFrame_bufSpan
      chkEmb_eq := rfl }⟩

/-- A frame loaded into a buffer in which no START is left is found where the buffer ended, and accepted. -/
theorem loaded_wireFrame_accepted (hcanon : Memory.wf s.buf) (horigin : s.scanOrigin ≤ s.len)
    (hnone : NoMatch s startMarker s.scanOrigin) (hroom : s.len + (wireFrame payload fill).length ≤ s.params.bufCap)
    (hfree : ¬ endMarker <:+: payload) :
    ∃ t u, performAll (pseudoBufLoad (wireFrame payload fill) ++ [issueInstr .frmFind]) s = .next t ∧
      t.status = 0x01#8 ∧ t.cand = some (wireCandidate payload s.len) ∧ exec .frmVal t = .next u ∧
      ShowsFrame payload fill u := by
  obtain ⟨r, hload, happ⟩ := performAll_pseudoBufLoad hcanon hroom
  have hloc : locateFrame r = some (wireCandidate payload s.len) :=
    locateFrame_of_wireFrame happ.matches_added hfree (happ.wireFrame_firstStart hnone horigin)
  have hfind := Effect.frmFind _ hloc
  obtain ⟨u, hval, hshows⟩ := frmVal_showsFrame (s := setStatus .candidate (holdCandidate _ (clearCandidate r)))
    happ.matches_added rfl
  refine ⟨_, u, ?_, rfl, rfl, hval, hshows⟩
  rw [performAll_append hload, performAll_issueInstr_cons hfind.exec_eq, performAll]

end AppendedFrame

/-! ## The obligations of 42_frame_validator.md -/

/-- Settles O40: the update is injective in its state and in its byte, so a changed byte gives another checksum; the
embedded one lies behind the covered span and stays. -/
theorem singleBitFlipIsRejected : Obligations.SingleBitFlipIsRejected := by
  intro s s' t c j k hcand hcand' hend hfirst hlast hk hsame hflip hexec hstatus
  have hequal := ((exec_eq_next_iff.mp hexec).frmVal_status_iff hcand).mp hstatus
  have hemb : embeddedChecksum s' c = embeddedChecksum s c := by
    rw [embeddedChecksum, embeddedChecksum, memRead2, memRead2, hsame _ (by omega), hsame _ (by omega)]
  have hcov : coveredChecksum s' c ≠ coveredChecksum s c :=
    checksum_bufSpan_ne hfirst hlast hsame (hflip ▸ xor_bit_ne _ hk)
  exact ⟨_, exec_frmVal_of_ne hcand' (by rwa [hemb, ← hequal]), rfl, rfl⟩

/-- Settles O43: START does not overlap itself. -/
theorem bothResumePointsFindTheSameStart : Obligations.BothResumePointsFindTheSameStart :=
  fun _ _ h => h.firstMatch_past_start

/-- Settles O46: FRM.VAL keeps the invariant, whose candidate the search locates again; FRM.SKIP moves the search past
the candidate's first byte. -/
theorem onlySkipMovesPastACandidate : Obligations.OnlySkipMovesPastACandidate := by
  refine ⟨fun s t u c hinv hcand hval hfind => ?again, fun s t u c c' hcand hskip hfind hcand' => ?later⟩
  case again =>
    have hval := exec_eq_next_iff.mp hval
    have hcandt : t.cand = some c := hval.frmVal_keeps_cand.trans hcand
    rw [(exec_eq_next_iff.mp hfind).frmFind_cand_eq]
    exact ((hval.keeps_inv hinv).candidate c hcandt).locateFrame_eq
  case later =>
    cases hskip.symm.trans (exec_frmSkip_of_some hcand)
    rw [(exec_eq_next_iff.mp hfind).frmFind_cand_eq] at hcand'
    exact (candidateOk_of_locateFrame hcand').afterOrigin

/-- Settles O48: an empty buffer has no START, so the first is that of the frame loaded. -/
theorem builtFrameIsAccepted : Obligations.BuiltFrameIsAccepted := by
  intro s payload fill hbuf hlen horigin hroom hfree
  have hnone : NoMatch s startMarker s.scanOrigin := fun i _ hm => by
    have := hm.1
    rw [startMarker_length] at this
    omega
  obtain ⟨t, u, hrun, hstatus, hcand, hval, hshows⟩ := loaded_wireFrame_accepted (fill := fill)
    (hbuf ▸ Memory.wf_nil) (by omega) hnone (by omega) hfree
  rw [hlen, wireCandidate, Nat.zero_add] at hcand
  exact ⟨t, u, hrun, hstatus, hcand, hval, hshows.status_eq, hshows.payload_eq, hshows.view_eq, hshows.chkEmb_eq⟩

/-- Settles O50: after the skip no START is left, so FRM.FIND holds nothing until the next frame's START is there. -/
theorem frameAfterARejectedOneIsAccepted : Obligations.FrameAfterARejectedOneIsAccepted := by
  intro s c payload fill hinv hcand hnone hroom hfree
  obtain ⟨u, v, hrun, -, hcandu, hval, hshows⟩ := loaded_wireFrame_accepted (fill := fill)
    (s := { s with scanOrigin := c.candStart + 1, cand := none, frm := none, status := 0x80#8 })
    hinv.buffer.canonical (hinv.candidate c hcand).resume_bounds.2 hnone hroom hfree
  exact ⟨_, u, v, performAll_frmSkip_frmFind hcand hnone, rfl, hrun, hcandu, hval, hshows.status_eq, hshows.payload_eq⟩

/-- Settles O18: the embedded checksum is the big-endian pair; R120's example is the frame of the payload "AB". -/
theorem frmValComparesTheChecksums : Obligations.FrmValComparesTheChecksums := by
  refine ⟨decode_encode .frmVal, fun s hnone => (Effect.frmValNone hnone).exec_eq, fun s c hcand => ?kept,
    fun s c emb comp hcand hend hemb hcomp => ?compared, fun s t h => (exec_eq_next_iff.mp h).exec_frmVal_again,
    fun i s t hi h => (exec_eq_next_iff.mp h).keeps_chk hi, fun s c hinv hcand => ?length, fun s hholds hcand => ?sample⟩
  case kept =>
    obtain ⟨t, ht⟩ := exists_effect .frmVal s
    exact ⟨t, ht.exec_eq, ht.frmVal_keeps_cand.trans hcand⟩
  case compared =>
    have hpair : embeddedChecksum s c = emb := BitVec.eq_of_toNat_eq <| by
      rw [embeddedChecksum, memRead2_toNat, hemb, Nat.sub_add_cancel (by omega)]
    subst hpair hcomp
    exact ⟨exec_frmVal_of_eq hcand, exec_frmVal_of_ne hcand⟩
  case length =>
    have hok := hinv.candidate c hcand
    have hend := hok.endIs
    have hroom := hok.roomForStart
    rw [bufSpan_length]
    omega
  case sample =>
    have hframe : frameAB = wireFrame [0x41#8, 0x42#8] 0x00#8 := by decide +kernel
    have hsum : checksum (coveredSpan [0x41#8, 0x42#8] 0x00#8) = 0x5BD2#16 := by decide +kernel
    rw [exec_frmVal_of_wireFrame (matches_zero_of_holds (hframe ▸ hholds)) hcand, hsum]
    rfl

/-- Settles O19: after FRM.SKIP no candidate is held; the bounds are those of R14's candidate. -/
theorem frmSkipResumesPastStart : Obligations.FrmSkipResumesPastStart := by
  refine ⟨decode_encode .frmSkip, fun s => ⟨exec_frmSkip_of_none, fun c => exec_frmSkip_of_some,
    fun t h => exec_frmSkip_of_none (exec_eq_next_iff.mp h).frmSkip_drops_cand,
    fun c hcand hinv => (hinv.candidate c hcand).resume_bounds⟩⟩

end Sys2Proof.Machine

namespace Sys2Proof.Machine

/-! ## The two tables as partial functions (R18, R19, R140, R141) -/

section Tables

variable {s : State}

/-- In a table with no key twice a lookup hits exactly on the table's pairs. -/
theorem lookup_eq_some_iff_mem {α β : Type} [BEq α] [LawfulBEq α] {l : List (α × β)} (h : (l.map Prod.fst).Nodup)
    {a : α} {b : β} : l.lookup a = some b ↔ (a, b) ∈ l := by
  refine ⟨lookup_mem, fun hmem => ?_⟩
  obtain ⟨pre, post, rfl⟩ := List.append_of_mem hmem
  rw [List.map_append, List.nodup_append, List.map_cons] at h
  obtain ⟨-, -, hdisjoint⟩ := h
  refine List.lookup_eq_some_iff.mpr ⟨pre, post, rfl, fun p hp => ?_⟩
  have hne : p.1 ≠ a := hdisjoint _ (List.mem_map_of_mem hp) _ List.mem_cons_self
  simpa using hne.symm

/-- A key that no pair of the table has misses. -/
theorem lookup_eq_none_of_not_mem {α β : Type} [BEq α] [LawfulBEq α] {l : List (α × β)} {a : α}
    (h : ∀ b, (a, b) ∉ l) : l.lookup a = none :=
  Option.eq_none_iff_forall_ne_some.mpr fun b hb => h b (lookup_mem hb)

/-- A unit table that meets R5 is a partial function (R18). -/
theorem unitLookup_eq_some_iff (h : UnitRom.wf s.params s.unitRom = true) {u : Byte} {l : Str} :
    unitLookup s u = some l ↔ (u, l) ∈ s.unitRom := by
  simp only [UnitRom.wf, Bool.and_eq_true, decide_eq_true_eq] at h
  obtain ⟨⟨hkeys, -⟩, -⟩ := h
  exact lookup_eq_some_iff_mem hkeys

/-- The pinned entries are in every unit table that meets R5 (R140). -/
theorem unitLookup_of_mem_pinnedUnits (h : UnitRom.wf s.params s.unitRom = true) {u : Byte} {l : Str}
    (hpinned : (u, l) ∈ pinnedUnits) : unitLookup s u = some l := by
  refine (unitLookup_eq_some_iff h).mpr ?_
  simp only [UnitRom.wf, Bool.and_eq_true, List.all_eq_true] at h
  obtain ⟨-, hpins⟩ := h
  simpa using hpins _ hpinned

/-- A decoration depends on the two tables alone. -/
theorem decorateRecord_congr {t : State} (h : SameTables s t) (r : Record) :
    decorateRecord t r = decorateRecord s r := by
  obtain ⟨hunit, hdesc, -⟩ := h
  simp only [decorateRecord, unitLookup, descLookup, hunit, hdesc]

end Tables

/-! ## An entry put in the map (R144) -/

section PutEntry

variable {m : List Entry} {e : Entry} {k : Nat}

/-- Overwriting in place keeps the map's keys. -/
theorem map_id_set (h : mapIndex m e.id = some k) : (m.set k e).map Entry.id = m.map Entry.id := by
  obtain ⟨hk, hid, -⟩ := mapIndex_eq_some_iff.mp h
  rw [List.map_set, ← hid, ← List.getElem_map Entry.id, List.set_getElem_self]
  simpa using hk

/-- After an overwrite the entry answers its own identifier; every other is answered as before. -/
theorem find?_id_set (h : mapIndex m e.id = some k) (id : Ident) :
    (m.set k e).find? (fun x => x.id == id) = if e.id = id then some e else m.find? (fun x => x.id == id) := by
  obtain ⟨hk, hid, hbefore⟩ := mapIndex_eq_some_iff.mp h
  have hsplit : m = m.take k ++ m[k] :: m.drop (k + 1) := by
    rw [← List.drop_eq_getElem_cons hk, List.take_append_drop]
  rw [List.set_eq_take_append_cons_drop, if_pos hk, List.find?_append, List.find?_cons]
  split_ifs with heq
  · have hnone : (m.take k).find? (fun x => x.id == id) = none := by
      simp only [List.find?_eq_none, List.mem_take_iff_getElem]
      rintro _ ⟨j, hj, rfl⟩
      simpa [← heq] using hbefore j (by omega)
    simp [hnone, heq]
  · conv_rhs => rw [hsplit, List.find?_append, List.find?_cons]
    simp only [hid, beq_false_of_ne heq]

/-- After an append the same holds, when no entry had the identifier. -/
theorem find?_id_append_new (h : mapIndex m e.id = none) (id : Ident) :
    (m ++ [e]).find? (fun x => x.id == id) = if e.id = id then some e else m.find? (fun x => x.id == id) := by
  have hnew := mapIndex_eq_none_iff.mp h
  rw [List.find?_append]
  split_ifs with heq
  · have hnone : m.find? (fun x => x.id == id) = none := by simpa [heq] using hnew
    simp [hnone, heq]
  · simp [heq]

end PutEntry

/-! ## DEC.CLR and DEC.PUT (R143, R144) -/

section Commands

variable {s t : State}

theorem exec_decClr (s : State) : exec .decClr s = .next { s with map := [], status := 0x00#8 } := Effect.decClr.exec_eq

/-- DEC.PUT into an empty map with room leaves the one decoration. -/
theorem exec_decPut_of_empty (hmap : s.map = []) (hcap : s.params.mapCap ≠ 0) :
    exec .decPut s = .next { s with map := [decorateRecord s s.port], status := 0x00#8 } := by
  have hnew : mapIndex s.map s.port.id = none := by rw [hmap]; rfl
  have hroom : s.map.length ≠ s.params.mapCap := by rw [hmap]; exact hcap.symm
  rw [(Effect.decPutNew hnew hroom).exec_eq, hmap]
  rfl

/-- What DEC.PUT does to a map with distinct keys in which the record's identifier has an entry or room. -/
theorem Effect.decPut_map (h : Effect s .decPut t)
    (hroom : mapIndex s.map s.port.id = none → s.map.length ≠ s.params.mapCap) (hkeys : (s.map.map Entry.id).Nodup) :
    t.status = 0x00#8 ∧ (t.map.map Entry.id).Nodup ∧
      ∀ id, t.map.find? (fun e => e.id == id) =
        if s.port.id = id then some (decorateRecord s s.port) else s.map.find? (fun e => e.id == id) := by
  cases h with
  | decPutOver k hidx =>
    have hsame := map_id_set (e := decorateRecord s s.port) hidx
    exact ⟨rfl, hsame.symm ▸ hkeys, find?_id_set hidx⟩
  | decPutFull hidx hfull => exact absurd hfull (hroom hidx)
  | decPutNew hidx _ =>
    have hnew := mapIndex_eq_none_iff.mp hidx
    refine ⟨rfl, ?_, find?_id_append_new hidx⟩
    simpa [List.nodup_append, hkeys, decorateRecord] using hnew

end Commands

/-! ## DECORATE (R65, R145): DEC.CLR and a DEC.PUT of each record -/

section Decorate

variable {s t u : State} {records : List Record}

/-- `t` holds what DECORATE of the records makes of `s`: each identifier has the decoration of the last record that has
it, the keys are distinct, and the last command ended with OK. -/
structure Decorates (s : State) (records : List Record) (t : State) : Prop where
  tables : SameTables s t
  status : t.status = 0x00#8
  keysDistinct : (t.map.map Entry.id).Nodup
  entries : ∀ id, t.map.find? (fun e => e.id == id) =
    (records.reverse.find? (fun r => r.id == id)).map (decorateRecord s)

theorem Decorates.nil (s : State) : Decorates s [] { s with map := [], status := 0x00#8 } :=
  ⟨⟨rfl, rfl, rfl⟩, rfl, List.nodup_nil, fun _ => rfl⟩

/-- A key of the map is the identifier of a record. -/
theorem Decorates.keys_subset (h : Decorates s records t) : t.map.map Entry.id ⊆ records.map Record.id := by
  intro id hid
  obtain ⟨e, he, rfl⟩ := List.mem_map.mp hid
  have hfound : (t.map.find? (fun x => x.id == e.id)).isSome := List.find?_isSome.mpr ⟨e, he, beq_self_eq_true _⟩
  rw [h.entries, Option.isSome_map, List.find?_isSome] at hfound
  obtain ⟨r, hr, hrid⟩ := hfound
  exact List.mem_map.mpr ⟨r, List.mem_reverse.mp hr, eq_of_beq hrid⟩

/-- A list with no element twice is no longer than the distinct elements of a list it lies in. -/
theorem length_le_length_dedup {α : Type} [DecidableEq α] {l l' : List α} (hl : l.Nodup) (h : l ⊆ l') :
    l.length ≤ l'.dedup.length :=
  (hl.subperm fun _ ha => List.mem_dedup.mpr (h ha)).length_le

/-- A record with a new identifier finds room, when the identifiers fit the map. -/
theorem Decorates.room_for (h : Decorates s records t) {r : Record}
    (hfit : ((records ++ [r]).map Record.id).dedup.length ≤ s.params.mapCap) (hnew : mapIndex t.map r.id = none) :
    t.map.length ≠ t.params.mapCap := by
  have hkeys : (r.id :: t.map.map Entry.id).Nodup :=
    List.nodup_cons.mpr ⟨by simpa using mapIndex_eq_none_iff.mp hnew, h.keysDistinct⟩
  have hsub : r.id :: t.map.map Entry.id ⊆ (records ++ [r]).map Record.id := by
    rw [List.map_append]
    exact List.cons_subset.mpr ⟨by simp, List.subset_append_of_subset_left _ h.keys_subset⟩
  have hlt := (length_le_length_dedup hkeys hsub).trans hfit
  obtain ⟨-, -, hparams⟩ := h.tables
  rw [List.length_cons, List.length_map, ← hparams] at hlt
  exact Nat.ne_of_lt hlt

/-- One more record (R144): the host drives it on the port, and its decoration is put in the map. -/
theorem Decorates.put (h : Decorates s records t) {r : Record}
    (hfit : ((records ++ [r]).map Record.id).dedup.length ≤ s.params.mapCap) :
    ∃ u, performAll (putRecord r) t = .next u ∧ Decorates s (records ++ [r]) u := by
  obtain ⟨u, hu⟩ := exists_effect .decPut { t with port := r }
  obtain ⟨hstatus, hkeys, hfind⟩ := hu.decPut_map (h.room_for hfit) h.keysDistinct
  obtain ⟨hunit, hdesc, hparams⟩ := h.tables
  obtain ⟨hunit', hdesc', hparams'⟩ := hu.sameTables
  refine ⟨u, ?run, ⟨hunit'.trans hunit, hdesc'.trans hdesc, hparams'.trans hparams⟩, hstatus, hkeys, fun id => ?entries⟩
  case run => exact performAll_issueInstr_cons hu.exec_eq []
  case entries =>
    have hdec : decorateRecord { t with port := r } r = decorateRecord s r :=
      decorateRecord_congr ⟨hunit, hdesc, hparams⟩ r
    rw [hfind, hdec, h.entries, List.reverse_append, List.reverse_singleton, List.singleton_append, List.find?_cons]
    split_ifs with heq
    · simp only [beq_iff_eq.mpr heq, Option.map_some]
    · simp only [beq_false_of_ne heq]

/-- DECORATE completes and decorates its records, when their identifiers fit the map. -/
theorem performAll_pseudoDecorate (s : State) (hfit : (records.map Record.id).dedup.length ≤ s.params.mapCap) :
    ∃ t, performAll (pseudoDecorate records) s = .next t ∧ Decorates s records t := by
  induction records using List.reverseRecOn with
  | nil => exact ⟨_, performAll_issueInstr_cons (exec_decClr s) [], .nil s⟩
  | append_singleton records r ih =>
    have hprefix : (records.map Record.id).dedup.length ≤ ((records ++ [r]).map Record.id).dedup.length :=
      length_le_length_dedup (List.nodup_dedup _) fun id hid => by
        rw [List.map_append]
        exact List.mem_append_left _ (List.mem_dedup.mp hid)
    obtain ⟨t, hrun, ht⟩ := ih (hprefix.trans hfit)
    obtain ⟨u, hput, hu⟩ := ht.put hfit
    refine ⟨u, ?_, hu⟩
    have happend : pseudoDecorate (records ++ [r]) = pseudoDecorate records ++ putRecord r := by simp [pseudoDecorate]
    rw [happend, performAll_append hrun, hput]

end Decorate

/-! ## The obligations of 43_record_decorator.md -/

/-- Settles O53, by induction on the records from the last: one more DEC.PUT overwrites its own identifier only. -/
theorem laterRecordsOverwriteEarlierOnes : Obligations.LaterRecordsOverwriteEarlierOnes := by
  intro s records hfit
  obtain ⟨t, hrun, h⟩ := performAll_pseudoDecorate s hfit
  exact ⟨t, hrun, h.status, h.keysDistinct, h.entries⟩

/-- Settles O51: an admissible table has no code twice and has the three pinned pairs. -/
theorem pinnedUnitsAreFound : Obligations.PinnedUnitsAreFound := fun _ h =>
  ⟨unitLookup_of_mem_pinnedUnits h (by decide), unitLookup_of_mem_pinnedUnits h (by decide),
    unitLookup_of_mem_pinnedUnits h (by decide), fun _ _ => unitLookup_eq_some_iff h⟩

/-- Settles O52: entry 0 is the decoration of the record on the port, and shows the two lookups as optional fields. -/
theorem decorationHitsAndMisses : Obligations.DecorationHitsAndMisses := by
  intro s d hunits hmap hcap
  obtain ⟨hlabel, hnoLabel⟩ := optionalField_reads (unitLookup s s.port.unit) []
  obtain ⟨hdesc, hnoDesc⟩ := optionalField_reads (descLookup s s.port.id) []
  refine ⟨_, exec_decPut_of_empty hmap hcap, fun hunit => ?_, hdesc d,
    fun hmiss => hnoLabel (lookup_eq_none_of_not_mem hmiss), fun hmiss => hnoDesc (lookup_eq_none_of_not_mem hmiss)⟩
  exact hlabel _ (hunit ▸ unitLookup_of_mem_pinnedUnits hunits (by decide))

/-- Settles O20, by the command's one outcome. -/
theorem decClrEmptiesTheMap : Obligations.DecClrEmptiesTheMap := by
  refine ⟨decode_encode .decClr, fun s => ⟨exec_decClr s, fun t h k => ?_⟩⟩
  cases h.symm.trans (exec_decClr s)
  rfl

/-- Settles O21, by the three outcomes of DEC.PUT; the entry is the record's decoration, field by field. -/
theorem decPutStoresTheDecoration : Obligations.DecPutStoresTheDecoration := by
  refine ⟨decode_encode .decPut, fun s ent hid hvalue hunit hscale hlabel hdesc => ?put,
    fun s hmap hcap hunits hdescs hport => ?sample⟩
  case put =>
    have hent : ent = decorateRecord s s.port := by
      cases ent
      subst hid hvalue hunit hscale hlabel hdesc
      rfl
    subst hent
    refine ⟨fun k hk hkid hleast => ?_, fun hnew hfull => ?_, fun hnew hroom => ?_⟩
    · have hidx : mapIndex s.map s.port.id = some k :=
        mapIndex_eq_some_iff.mpr ⟨hk, hkid, fun j hj => hleast j (hj.trans hk) hj⟩
      exact (Effect.decPutOver k hidx).exec_eq
    · exact (Effect.decPutFull (mapIndex_eq_none_iff.mpr hnew) hfull).exec_eq
    · exact (Effect.decPutNew (mapIndex_eq_none_iff.mpr hnew) hroom).exec_eq
  case sample =>
    have hlabel : unitLookup s s.port.unit = some [0x57#8] := by rw [unitLookup, hunits, hport]; rfl
    have hdesc : (descLookup s s.port.id).isSome = true := by rw [descLookup, hdescs, hport]; rfl
    obtain ⟨hread, -⟩ := optionalField_reads (unitLookup s s.port.unit) []
    obtain ⟨hhit, hstring⟩ := hread _ hlabel
    exact ⟨_, exec_decPut_of_empty hmap hcap, rfl, rfl, hhit, hstring, hdesc⟩

end Sys2Proof.Machine

namespace Sys2Proof.Machine

/-! ## What moves `scan_origin` (R151) -/

section ScanOrigin

variable {s t : State} {i : Instr}

/-- Only BUF.CLR and FRM.SKIP write `scan_origin` (R14, R151). -/
theorem Effect.keeps_scanOrigin (h : Effect s i t) (hclr : i ≠ .bufClr) (hskip : i ≠ .frmSkip) :
    t.scanOrigin = s.scanOrigin := by
  cases h with
  | bufClr => exact absurd rfl hclr
  | frmSkipNone | frmSkip => exact absurd rfl hskip
  | _ => rfl

/-- A held candidate starts at or above `scan_origin` (R14), so FRM.SKIP moves it up; BUF.CLR alone moves it down. -/
theorem Effect.scanOrigin_zero_or_ge (h : Effect s i t) (hcand : ∀ c, s.cand = some c → s.scanOrigin ≤ c.candStart) :
    t.scanOrigin = 0 ∨ s.scanOrigin ≤ t.scanOrigin := by
  cases h with
  | bufClr => exact .inl rfl
  | frmSkip c hc => exact .inr (Nat.le_succ_of_le (hcand c hc))
  | _ => exact .inr le_rfl

theorem Acts.scanOrigin_zero_or_ge {a : HostAction} (h : Acts s a t)
    (hcand : ∀ c, s.cand = some c → s.scanOrigin ≤ c.candStart) :
    t.scanOrigin = 0 ∨ s.scanOrigin ≤ t.scanOrigin := by
  cases h with
  | command _ heff => exact heff.scanOrigin_zero_or_ge hcand
  | illegal | drivePort => exact .inr le_rfl
  | reset => exact .inl rfl

/-- Taking the action off the host's list moves neither `scan_origin` nor the candidate (log entry 4). -/
theorem State.Inv.scanOrigin_zero_or_ge_of_step (h : s.Inv) (hstep : step s = .next t) :
    t.scanOrigin = 0 ∨ s.scanOrigin ≤ t.scanOrigin := by
  obtain ⟨-, rfl⟩ | ⟨a, rest, -, ha⟩ := step_cases hstep
  · exact .inr le_rfl
  · exact ha.scanOrigin_zero_or_ge fun c hc => (h.candidate c hc).afterOrigin

end ScanOrigin

/-! ## The obligation of 44_control_memory_system.md -/

/-- Settles O28, by the outcomes of each command; the bound by `len` is the invariant of the next state. -/
theorem scanOriginMovesOnlyAsListed : Obligations.ScanOriginMovesOnlyAsListed := by
  refine ⟨fun i s t hexec => ?command, fun w s t hw hrun => ?illegal, fun r s t hdrive => ?drivePort,
    resetBlock_scanOrigin, fun s t hinv hstep =>
      ⟨hinv.scanOrigin_zero_or_ge_of_step hstep, (hinv.of_step hstep).buffer.originLe⟩⟩
  case command =>
    refine ⟨?clr, ?skip, (exec_eq_next_iff.mp hexec).keeps_scanOrigin, ?skipNone⟩
    case clr =>
      rintro rfl
      cases hexec.symm.trans Effect.bufClr.exec_eq
      rfl
    case skip =>
      rintro c rfl hcand
      cases hexec.symm.trans (exec_frmSkip_of_some hcand)
      rfl
    case skipNone =>
      rintro rfl hcand
      cases hexec.symm.trans (exec_frmSkip_of_none hcand)
      rfl
  case illegal =>
    cases hrun.symm.trans (runCommand_of_illegal hw s)
    rfl
  case drivePort =>
    cases hdrive.symm.trans (Acts.drivePort r).perform_eq
    rfl

end Sys2Proof.Machine

namespace Sys2Proof.Machine

/-! ## The conditions this block adds (R166 to R169) -/

section AddedConditions

variable {s t : State} {i : Instr}

/-- Bits 7 and 6 mark the four conditions that are not conditions of a frame (R15, R166 to R169). -/
theorem statusBits_has_bits76_iff {c : StatusCode} : statusBits c &&& 0xC0#8 = 0xC0#8 ↔
    c = .illegalCmd ∨ c = .bufOverflow ∨ c = .noCandidate ∨ c = .mapFull := by
  cases c <;> decide

/-- The four outcomes with such a code write it to the state as they found it; every other outcome has another code. -/
theorem Effect.eq_of_bits76 (h : Effect s i t) (hbits : t.status &&& 0xC0#8 = 0xC0#8) :
    t = { s with status := t.status } := by
  cases h with
  | bufPushFull | frmValNone | frmSkipNone | decPutFull => rfl
  | _ => simp [statusBits_has_bits76_iff] at hbits

end AddedConditions

/-! ## The step of a host that does nothing -/

/-- While the host does nothing the block holds its state (R177, log entry 4). -/
theorem step_of_pending_nil {s : State} (h : s.pending = []) : step s = .next s := by
  simp only [step, h]

/-! ## The obligations of 60_exceptions.md -/

/-- Settles O25, by the outcomes of each command. -/
theorem addedConditionsChangeNothingElse : Obligations.AddedConditionsChangeNothingElse := fun _ _ _ hexec =>
  (exec_eq_next_iff.mp hexec).eq_of_bits76

/-- Settles O7: the illegal word raises IllegalCommand alone, and the host's next word is then at the head of its list. -/
theorem illegalCommandThenNextCommand : Obligations.IllegalCommandThenNextCommand :=
  fun _ _ _ rest i hpending hillegal hdec =>
    ⟨(step_of_pending hpending).trans (runCommand_of_illegalWord hillegal _),
      stepRunsTheDecodedCommand _ _ rest i rfl hdec⟩

/-- Settles O8. -/
theorem idleStepHoldsTheState : Obligations.IdleStepHoldsTheState := fun _ => step_of_pending_nil

end Sys2Proof.Machine

namespace Sys2Proof.Machine

open Sys2Proof.Spec

/-! ## The reset input (R190) -/

/-- No register shows the host's side, so after the reset input each reads as after reset (R14, R23). -/
theorem readReg_resetBlock (s : State) (r : Reg) : readReg (resetBlock s) r = resetValue r :=
  (resetRegisterValues s.params s.unitRom s.descRom).1 r

/-! ## The three registers the clearing commands leave (R191) -/

section ReportRegisters

variable {s t : State} {i : Instr}

/-- The guards and outcomes of the eight commands that write none of `crc_result`, `chk_emb` and `chk_comp` speak of none
of them, so the same outcome is there whatever the three hold. -/
theorem Effect.ignores_reports (h : Effect s i t) (hfin : i ≠ .crcFin) (hval : i ≠ .frmVal) (a b c : Word) :
    Effect { s with crcResult := a, chkEmb := b, chkComp := c } i
      { t with crcResult := a, chkEmb := b, chkComp := c } := by
  cases h with
  | crcFin => exact absurd rfl hfin
  | frmValNone | frmVal | frmValMismatch => exact absurd rfl hval
  | _ => constructor <;> assumption

/-- Nor do CRC.FIN and FRM.VAL read the three, so whatever these hold a command does the same to all else. -/
theorem Effect.same_but_reports (h : Effect s i t) (a b c : Word) :
    ∃ u, Effect { s with crcResult := a, chkEmb := b, chkComp := c } i u ∧
      u = { t with crcResult := u.crcResult, chkEmb := u.chkEmb, chkComp := u.chkComp } := by
  have hother := fun hfin hval => h.ignores_reports hfin hval a b c
  cases h with
  | crcFin => exact ⟨_, .crcFin, rfl⟩
  | frmValNone hcand => exact ⟨_, .frmValNone hcand, rfl⟩
  | frmVal c hcand heq => exact ⟨_, .frmVal c hcand heq, rfl⟩
  | frmValMismatch c hcand hne => exact ⟨_, .frmValMismatch c hcand hne, rfl⟩
  | _ => exact ⟨_, hother nofun nofun, rfl⟩

/-- The three clearing commands in a row, each from the state the one before it leaves (R191). -/
theorem performAll_clearing (s : State) :
    performAll [issueInstr .bufClr, issueInstr .decClr, issueInstr .crcInit] s =
      .next { resetBlock s with crcResult := s.crcResult, chkEmb := s.chkEmb, chkComp := s.chkComp } := by
  rw [performAll_issueInstr_cons Effect.bufClr.exec_eq, performAll_issueInstr_cons (exec_decClr _)]
  exact performAll_issueInstr_cons (exec_crcInit _) []

end ReportRegisters

/-! ## The obligations of 70_reset_and_hazards.md -/

/-- Settles O30: the clearing commands write every register but three, and no outcome of a command reads those. -/
theorem clearingCommandsNearlyReset : Obligations.ClearingCommandsNearlyReset := by
  refine ⟨performAll_clearing, fun i s a b c => ?_⟩
  obtain ⟨t, ht⟩ := exists_effect i s
  obtain ⟨u, hu, hsame⟩ := ht.same_but_reports a b c
  exact ⟨t, u, ht.exec_eq, hu.exec_eq, hsame⟩

/-- Settles O10: the step performs the reset, which leaves the host's side (log entry 4). -/
theorem resetInputGivesResetState : Obligations.ResetInputGivesResetState := fun s rest hpending =>
  ⟨resetBlock { s with pending := rest }, step_of_pending hpending, readReg_resetBlock _,
    fun i => if_neg (Nat.not_lt_zero i), fun _ => rfl, rfl, rfl, rfl, rfl, rfl, rfl⟩

end Sys2Proof.Machine
